-- ==== Sys2Proof/Word.lean ====
section
/-!
DEFINITION. Word types of the tomatobox RT core (00_scope.md R8, R10; 10_state.md).
The `iN` and `uN` of the spec are bit vectors; a rule reads one as an integer by `toInt` or `toNat`. The widths are the
ones the rules write (`i32`, `u16`, `wrap_32`, `uwrap_16`), R6's values of FX_W, CAP_W and PCA_CNT_W (log 28).
-/
namespace Sys2Proof

/-- `u8` (00_scope.md R8). -/
abbrev Byte := BitVec 8

/-- `u16` and `i16`: capture registers, short timers, counters, readings (00_scope.md R6 CAP_W, PCA_CNT_W). -/
abbrev Half := BitVec 16

/-- `u32`, `i32` and `fx`: host registers, fixed-point values, table entries (00_scope.md R6 FX_W, R10). -/
abbrev Word := BitVec 32

/-- The packet buffer `buf[0..4]` (10_state.md R25): N_BYTES = 5 (00_scope.md R6; log 28). -/
abbrev Packet := Vector Byte 5

end Sys2Proof
end

