-- ==== Sys2Proof/Syntax.lean ====
section
/-!
DEFINITION. The instruction set: one constructor per row of spec/opcode_table.json (00_scope.md R3:
an instruction is a command, an event, or a symbol of the decode sequencer), and the code words they are written as.
-/
namespace Sys2Proof

/-- A command's operands stand in `cmd.a0`, `cmd.a1`, `cmd.a2` (10_state.md R21, 30_encoding.md R97), so its
constructor has none. The two events with a payload carry it (30_encoding.md R96). -/
inductive Instr where
  /-- 0x01 (40_fixed_point.md R111) -/
  | fxAdd
  /-- 0x02 (R112) -/
  | fxSub
  /-- 0x03 (R113) -/
  | fxMul
  /-- 0x04 (R114) -/
  | fxDiv
  /-- 0x05 (R115) -/
  | fxFromInt
  /-- 0x06 (R116) -/
  | fxToInt
  /-- 0x07 (R117) -/
  | fxClamp
  /-- 0x08 (R118) -/
  | fxParse
  /-- 0x09 (R119) -/
  | fxFormat
  /-- 0x10 (41_sensor_decoder.md R133, R134) -/
  | swdRead
  /-- 0x20 (42_phase_actuator.md R165) -/
  | pcaSet
  /-- 0x21 (R171) -/
  | pcaRead
  /-- 0x22 (R162) -/
  | pcaInit
  /-- 0x30 (43_pid.md R192) -/
  | pidCompute
  /-- 0x31 (R196) -/
  | pidSetCoef
  /-- 0x32 (R197) -/
  | pidSetLimits
  /-- 0x40 (44_control_loop.md R211) -/
  | loopTick
  /-- 0x80 (41_sensor_decoder.md R138) -/
  | swdIrqCapture (period low : Half)
  /-- 0x81 (R139) -/
  | swdIrqCapto
  /-- 0x82 (R135) -/
  | swdStartDone
  /-- 0x83 (R136) -/
  | swdConsume
  /-- 0x84 (R137) -/
  | swdWaitExpire
  /-- 0x85 (R141) -/
  | swdDeadline
  /-- 0x90 (42_phase_actuator.md R166) -/
  | pcaIrqZc (period offset : Half)
  /-- 0x91 (R169) -/
  | pcaBExpire
  /-- 0x92 (R170) -/
  | pcaCReload
  /-- 0x93 (R172) -/
  | pcaReadExpire
  /-- symbol 0 (30_encoding.md R84) -/
  | symInvalid
  /-- symbol 1 (R84) -/
  | symStart
  /-- symbol 2 (R84) -/
  | symBit0
  /-- symbol 3 (R84) -/
  | symBit1
  /-- symbol 4 (R84) -/
  | symTimeout
  deriving DecidableEq, Repr

/-- The three code spaces. A command code is 8 bits in `cmd.op` (30_encoding.md R95). An event code is 8 bits and
is NOT issued through `cmd.op` (R96); its payload is one 32-bit word, 0 where the event has none. A symbol code is
3 bits (R84): what one Capture Sample decodes to. -/
inductive CodeWord where
  | command (op : Byte)
  | event (code : Byte) (payload : Word)
  | symbol (code : BitVec 3)
  deriving DecidableEq, Repr

end Sys2Proof
end

