-- ==== Sys2Proof/WellFormed.lean ====
section
/-!
DEFINITION. Which instructions the spec allows: the one constraint it lays on a payload.
-/
namespace Sys2Proof

/-- 41_sensor_decoder.md R138: "`period`, `low : u16` with `period >= 1`" (30_encoding.md R82: `period = 0` is
reserved for the report of the capture timeout). PCA_IRQ_ZC is total in its payload (42_phase_actuator.md R167). -/
def Instr.wf : Instr → Bool
  | .fxAdd | .fxSub | .fxMul | .fxDiv | .fxFromInt | .fxToInt | .fxClamp | .fxParse | .fxFormat => true
  | .swdRead | .pcaSet | .pcaRead | .pcaInit | .pidCompute | .pidSetCoef | .pidSetLimits | .loopTick => true
  | .swdIrqCapture period _ => period != 0
  | .swdIrqCapto | .swdStartDone | .swdConsume | .swdWaitExpire | .swdDeadline => true
  | .pcaIrqZc _ _ | .pcaBExpire | .pcaCReload | .pcaReadExpire => true
  | .symInvalid | .symStart | .symBit0 | .symBit1 | .symTimeout => true

end Sys2Proof
end

