-- ==== Sys2Proof/Decode.lean ====
section
/-!
DEFINITION. Decoding of a code word, total, rejecting by name; the encoder; and the host's table-word decoder.
The tables are 30_encoding.md R84 (symbols), R95 (commands) and R96 (events).
-/
namespace Sys2Proof

/-- Why a code word is no instruction. -/
inductive Reject where
  /-- a `cmd.op` value not in 30_encoding.md R95 (R98: status BAD_OP) -/
  | badOp
  /-- an event code not in R96 -/
  | unknownEvent
  /-- a payload on an event that R96 gives none -/
  | strayPayload
  /-- a symbol code 5 to 7, which R84 does not assign -/
  | reservedSymbol
  deriving DecidableEq, Repr

/-- 30_encoding.md R82: `period` in bits 31:16, the second field (`low` or `offset`) in bits 15:0. -/
def packSample (period second : Half) : Word := period ++ second

/-- The `period` field, bits 31:16 (R82). -/
def samplePeriod (w : Word) : Half := w.extractLsb' 16 16

/-- The `low` or `offset` field, bits 15:0 (R82). -/
def sampleSecond (w : Word) : Half := w.extractLsb' 0 16

/-- 30_encoding.md R95. -/
def decodeCommand (op : Byte) : Except Reject Instr :=
  match op.toNat with
  | 0x01 => .ok .fxAdd
  | 0x02 => .ok .fxSub
  | 0x03 => .ok .fxMul
  | 0x04 => .ok .fxDiv
  | 0x05 => .ok .fxFromInt
  | 0x06 => .ok .fxToInt
  | 0x07 => .ok .fxClamp
  | 0x08 => .ok .fxParse
  | 0x09 => .ok .fxFormat
  | 0x10 => .ok .swdRead
  | 0x20 => .ok .pcaSet
  | 0x21 => .ok .pcaRead
  | 0x22 => .ok .pcaInit
  | 0x30 => .ok .pidCompute
  | 0x31 => .ok .pidSetCoef
  | 0x32 => .ok .pidSetLimits
  | 0x40 => .ok .loopTick
  | _ => .error .badOp

/-- An event that R96 gives no payload: its payload word is 0. -/
def bareEvent (i : Instr) (payload : Word) : Except Reject Instr :=
  if payload = 0 then .ok i else .error .strayPayload

/-- 30_encoding.md R96. -/
def decodeEvent (code : Byte) (payload : Word) : Except Reject Instr :=
  match code.toNat with
  | 0x80 => .ok (.swdIrqCapture (samplePeriod payload) (sampleSecond payload))
  | 0x81 => bareEvent .swdIrqCapto payload
  | 0x82 => bareEvent .swdStartDone payload
  | 0x83 => bareEvent .swdConsume payload
  | 0x84 => bareEvent .swdWaitExpire payload
  | 0x85 => bareEvent .swdDeadline payload
  | 0x90 => .ok (.pcaIrqZc (samplePeriod payload) (sampleSecond payload))
  | 0x91 => bareEvent .pcaBExpire payload
  | 0x92 => bareEvent .pcaCReload payload
  | 0x93 => bareEvent .pcaReadExpire payload
  | _ => .error .unknownEvent

/-- 30_encoding.md R84. -/
def decodeSymbol (code : BitVec 3) : Except Reject Instr :=
  match code.toNat with
  | 0 => .ok .symInvalid
  | 1 => .ok .symStart
  | 2 => .ok .symBit0
  | 3 => .ok .symBit1
  | 4 => .ok .symTimeout
  | _ => .error .reservedSymbol

/-- The decoder, total on every code word. -/
def decode : CodeWord → Except Reject Instr
  | .command op => decodeCommand op
  | .event code payload => decodeEvent code payload
  | .symbol code => decodeSymbol code

/-- The encoder, from the same tables. -/
def encode : Instr → CodeWord
  | .fxAdd => .command 0x01
  | .fxSub => .command 0x02
  | .fxMul => .command 0x03
  | .fxDiv => .command 0x04
  | .fxFromInt => .command 0x05
  | .fxToInt => .command 0x06
  | .fxClamp => .command 0x07
  | .fxParse => .command 0x08
  | .fxFormat => .command 0x09
  | .swdRead => .command 0x10
  | .pcaSet => .command 0x20
  | .pcaRead => .command 0x21
  | .pcaInit => .command 0x22
  | .pidCompute => .command 0x30
  | .pidSetCoef => .command 0x31
  | .pidSetLimits => .command 0x32
  | .loopTick => .command 0x40
  | .swdIrqCapture period low => .event 0x80 (packSample period low)
  | .swdIrqCapto => .event 0x81 0
  | .swdStartDone => .event 0x82 0
  | .swdConsume => .event 0x83 0
  | .swdWaitExpire => .event 0x84 0
  | .swdDeadline => .event 0x85 0
  | .pcaIrqZc period offset => .event 0x90 (packSample period offset)
  | .pcaBExpire => .event 0x91 0
  | .pcaCReload => .event 0x92 0
  | .pcaReadExpire => .event 0x93 0
  | .symInvalid => .symbol 0
  | .symStart => .symbol 1
  | .symBit0 => .symbol 2
  | .symBit1 => .symbol 3
  | .symTimeout => .symbol 4

/-- The code word that spec/opcode_table.json's numbering lays out in the `nbits` low bits of `w` (log 17): a row of
fewer than 8 bits is a symbol; a row of 8 bits or more is a command where bit 7 is 0 and an event where it is 1
(30_encoding.md R96), the event's payload word counting on from bit 8. Bits at `nbits` and above are 0. -/
def tableWord (nbits w : Nat) : CodeWord :=
  let v := w % 2 ^ nbits
  if nbits < 8 then .symbol (BitVec.ofNat 3 v)
  else if v % 256 < 128 then .command (BitVec.ofNat 8 v)
  else .event (BitVec.ofNat 8 v) (BitVec.ofNat 32 (v / 256))

/-- The host's view of the decoder: the instruction of a table word, none where the decoder refuses it. -/
def decodeTableWord (nbits w : Nat) : Option Instr :=
  match decode (tableWord nbits w) with
  | .ok i => some i
  | .error _ => none

end Sys2Proof
end

