-- ==== Sys2Proof/Config.lean ====
section
/-!
DEFINITION. The parameters of 00_scope.md R6 as one plain record, and the one free value.
R6: "Every such quantity is a named parameter of the model (a field of its configuration)".
A state carries its record (assumption log 3), so a claim about every state is a claim about every configuration.
-/
namespace Sys2Proof

/-- LOOP_INPUT_SEL: which reading feeds the PID (44_control_loop.md R214). -/
inductive InputSel where
  | temperature
  | humidity
  deriving DecidableEq, Repr

/-- The parameter table of 00_scope.md R6, one field a row. The rules themselves are written at R6's values of FX_W,
CAP_W, PCA_CNT_W, N_BYTES and TICK, so the machine is modelled at those values and `confOk` asks for them (log 28). -/
structure Config where
  /-- FX_W, bits -/
  fxW : Nat
  /-- FX_FRAC -/
  fxFrac : Nat
  /-- FX_FMT_DIGITS -/
  fxFmtDigits : Nat
  /-- CAP_W, bits -/
  capW : Nat
  /-- TICK, microseconds -/
  tick : Nat
  /-- T_START, ticks -/
  tStart : Half
  /-- T_CAPTO, ticks -/
  tCapto : Half
  /-- T_WAIT, ticks -/
  tWait : Half
  /-- T_RCV: the timeout LOOP_TICK gives its SWD_READ, ticks -/
  tRcv : Word
  /-- V_START_LOW -/
  vStartLow : Nat
  /-- V_START_HIGH -/
  vStartHigh : Nat
  /-- V_BIT_LOW -/
  vBitLow : Nat
  /-- V_ZERO_HIGH -/
  vZeroHigh : Nat
  /-- V_ONE_HIGH -/
  vOneHigh : Nat
  /-- N_BITS: data bits per packet -/
  nBits : Nat
  /-- N_BYTES: bytes per packet -/
  nBytes : Nat
  /-- PCA_MAX (OPEN, at least 2) -/
  pcaMax : Nat
  /-- PCA_SHIFT (OPEN, default 16) -/
  pcaShift : Nat
  /-- PCA_TABLE (OPEN, constrained by 42_phase_actuator.md R163) -/
  pcaTable : List Word
  /-- PCA_PULSE_W (OPEN, at least 1) -/
  pcaPulseW : Half
  /-- PCA_CNT_W, bits -/
  pcaCntW : Nat
  /-- T_PCA_READ, ticks -/
  tPcaRead : Word
  /-- T_POLL (OPEN): no rule reads it; 44_control_loop.md R215 bounds it (`confOk`) -/
  tPoll : Nat
  /-- T_LOCK (OPEN), ticks. R6 gives it no lower bound and the model asks for none: with 0 the acquisition of a held
  lock fails at once, since 0 ticks have then passed (20_memory.md R74; DEDUCED, log 29). -/
  tLock : Nat
  /-- PID_TIME_UNIT (OPEN), ticks per whole unit of a timestamp: a unit's name, which no rule computes with -/
  pidTimeUnit : Nat
  /-- LOOP_INPUT_SEL (OPEN, default temperature) -/
  loopInputSel : InputSel
  deriving DecidableEq, Repr

/-- The values of 00_scope.md R6 and, for what R6 leaves OPEN, the example configuration of 95_test_vectors.md
section 3. DESIGN CHOICE, log 3: T_LOCK, T_POLL and PID_TIME_UNIT have no example in the spec. -/
def Config.example : Config where
  fxW := 32
  fxFrac := 16
  fxFmtDigits := 3
  capW := 16
  tick := 1
  tStart := 2000
  tCapto := 320
  tWait := 2000
  tRcv := 10000
  vStartLow := 80
  vStartHigh := 80
  vBitLow := 50
  vZeroHigh := 27
  vOneHigh := 70
  nBits := 40
  nBytes := 5
  pcaMax := 8
  pcaShift := 16
  pcaTable := [65536, 57344, 49152, 40960, 32768, 24576, 16384, 8192, 0]
  pcaPulseW := 100
  pcaCntW := 16
  tPcaRead := 100000
  tPoll := 2000000
  tLock := 1000
  pidTimeUnit := 1000000
  loopInputSel := .temperature

/-- Which of several held SWD_READ callers is accepted first: "a model leaves the order open"
(41_sensor_decoder.md R134, 93_implementation_defined.md U11). A FREE VALUE, log 5, applied to the counter
`run.picks`; the index is taken modulo the number of callers held. -/
opaque Config.heldPick : Nat → Nat

end Sys2Proof
end

