-- ==== Sys2Proof/Machine/State.lean ====
section
/-!
DEFINITION. The machine's state as plain data, the reasons a step can stop, and the state after reset
(10_state.md R20 to R44, 70_reset_and_hazards.md R260).
-/
namespace Sys2Proof.Machine

/-- Nothing in the core halts on an error (60_exceptions.md R225: "nothing in it halts, resets or transfers control
on an error"), so no step ends in a fault and the type has no constructor. -/
inductive Fault : Type
  deriving DecidableEq, Repr

/-- Why a step has no next state. Every one but `notModelled` is a step that the spec says is not enabled
(93_implementation_defined.md part 1: "the step is not enabled; a model's step function returns no next state").
All are safe: the model stops where the spec gives no next state. -/
inductive Refusal where
  /-- raised by exec's arm of an instruction that has no meaning yet; safe -/
  | notModelled (mnemonic : String)
  /-- SWD_READ with `timeout <= 0` (U1); safe -/
  | timeoutNotPositive
  /-- SWD_READ while the caller's own completion signal is already given (U3); safe -/
  | completionNotFresh
  /-- PCA_SET before PCA_INIT (U4); safe -/
  | pcaNotInitialised
  /-- a second PCA_INIT (U4); safe -/
  | pcaAlreadyInitialised
  /-- PCA_INIT with a PCA_TABLE outside 42_phase_actuator.md R163 (U5); safe -/
  | phaseTableIllFormed
  /-- PID_COMPUTE with `dt < 0` (U7); safe -/
  | timestampBackwards
  /-- LOOP_TICK before the previous one has returned (70_reset_and_hazards.md R276); safe -/
  | loopTickOverlap
  /-- SWD_IRQ_CAPTURE with the reserved `period = 0` (41_sensor_decoder.md R138); safe -/
  | captureZeroPeriod
  /-- an SWD interrupt while `swd.irq_en = 0` (60_exceptions.md R232: "its source raises nothing"); safe -/
  | swdInterruptsDisabled
  /-- SWD_START_DONE outside phase START_PULSE (41_sensor_decoder.md R135); safe -/
  | noStartPulse
  /-- SWD_CONSUME with no signal or outside the two waiting phases (R136); safe -/
  | nothingToConsume
  /-- SWD_WAIT_EXPIRE with a signal present or outside the two waiting phases (R137); safe -/
  | waitNotExpired
  /-- SWD_DEADLINE, or the expiry of a held read, with no such SWD_READ outstanding (R141); safe -/
  | noReadOutstanding
  /-- a symbol that the captured sample does not decode to, or no sample to decode (30_encoding.md R84); safe -/
  | symbolNotPresent
  /-- PCA_IRQ_ZC while `pca.irq_en = 0` (60_exceptions.md R232); safe -/
  | pcaInterruptDisabled
  /-- PCA_B_EXPIRE while `pca.b_run = 0` (42_phase_actuator.md R169); safe -/
  | counterBStopped
  /-- PCA_C_RELOAD while `pca.c_run = 0` (R170); safe -/
  | counterCStopped
  /-- PCA_READ_EXPIRE with no PCA_READ blocked or a signal present (R172) ; safe -/
  | readWindowOpen
  /-- a task is asked to run a step it is blocked in, or has none (20_memory.md R66, R70, R74); safe -/
  | taskBlocked
  /-- an event input whose code is none of 30_encoding.md R96; safe -/
  | unknownEvent
  /-- an event input with a payload word on an event that has none (R96); safe -/
  | strayPayload
  deriving DecidableEq, Repr

/-- Host command registers (10_state.md R21). The two strings have "no register encoding" (30_encoding.md R95): the
operand of FX_PARSE and the result of FX_FORMAT are lists of characters (log 15). -/
structure Cmd where
  op : Byte
  a0 : Word
  a1 : Word
  a2 : Word
  r0 : Word
  r1 : Word
  status : Byte
  str : List Char
  strOut : List Char
  deriving DecidableEq, Repr

/-- `swd.phase` (10_state.md R22). -/
inductive Phase where
  | idle
  | startPulse
  | waitStart
  | waitBit
  deriving DecidableEq, Repr

/-- Single-wire decoder (10_state.md R22 to R28). `sample` is one 32-bit word (20_memory.md R62). -/
structure Swd where
  phase : Phase
  bit : Nat
  sig : Bool
  irqEn : Bool
  lineDrive : Bool
  busy : Bool
  sample : Word
  buf : Packet
  gen : Word
  humidity : Half
  temperature : Half
  tStart : Half
  tWait : Half
  tRcv : Word
  deriving DecidableEq, Repr

/-- Client side of the Sensor Read Request (10_state.md R26). -/
structure Cli where
  done : Bool
  buf : Packet
  err : Byte
  deriving DecidableEq, Repr

/-- Capture unit (10_state.md R29); `prev` is the pin's level on the previous tick (41_sensor_decoder.md R148). -/
structure Cap where
  cnt : Half
  lowLatch : Half
  first : Bool
  prev : Bool
  deriving DecidableEq, Repr

/-- Phase-control actuator (10_state.md R30 to R37); `aPrev` is the detector's level on the previous tick
(42_phase_actuator.md R175). -/
structure Pca where
  level : Word
  phaseEntry : Word
  width : Half
  bypass : Bool
  sample : Word
  sig : Bool
  irqEn : Bool
  aCnt : Half
  aHigh : Half
  aFirst : Bool
  aPrev : Bool
  bLoad : Half
  bCnt : Half
  bRun : Bool
  cReload : Half
  cCnt : Half
  cRun : Bool
  table : List Word
  tRead : Word
  deriving DecidableEq, Repr

/-- PID state (10_state.md R38). -/
structure Pid where
  kp : Word
  ki : Word
  kd : Word
  integral : Word
  prevError : Word
  prevTs : Word
  low : Word
  high : Word
  hasPrev : Bool
  deriving DecidableEq, Repr

/-- The shared configuration record (10_state.md R40). -/
structure LoopCfg where
  kp : Word
  ki : Word
  kd : Word
  low : Word
  high : Word
  spDay : Word
  spNight : Word
  manual : Bool
  deriving DecidableEq, Repr

/-- Control-loop state (10_state.md R40, R41). -/
structure Loop where
  cfg : LoopCfg
  lastTemperature : Half
  lastHumidity : Half
  haveReading : Bool
  errCount : Word
  deriving DecidableEq, Repr

/-- What the collaborators supply (44_control_loop.md R210), held as ports. DESIGN CHOICE, log 27: the LOOP task samples
`ext.cfg` at its snapshot under the lock, and `ext.isDay` and `ext.now` at its PID_COMPUTE, not at the issue of
LOOP_TICK. -/
structure Ext where
  cfg : LoopCfg
  isDay : Bool
  now : Word
  deriving DecidableEq, Repr

/-- Who issues an SWD_READ: the host (a command), which stands for any number of callers (DEDUCED, log 26), or the LOOP
task (step 2 of LOOP_TICK). -/
inductive Caller where
  | host
  | loop
  deriving DecidableEq, Repr

/-- An SWD_READ held while the slot is busy (41_sensor_decoder.md R134): its caller and the ticks left of its own
deadline. `fresh`: issued by the host on this tick, so its timer first counts on the next (log 8). -/
structure Held where
  caller : Caller
  left : Word
  fresh : Bool
  deriving DecidableEq, Repr

/-- Where the LOOP task stands in the sequence of LOOP_TICK (44_control_loop.md R211): the operation it runs next.
What a called operation returned to the task is carried along (log 10): the status of its SWD_READ, the PID output. -/
inductive LoopStage where
  | idle
  | acquire
  | snapshot
  | release
  | coef
  | limits
  | read
  | waiting
  | record (status : Byte)
  | compute (status : Byte)
  | set (status : Byte) (out : Word)
  | finish (status : Byte)
  deriving DecidableEq, Repr

/-- The MODEL's own record of what the rules call blocked, held and outstanding, and of timers loaded on this tick
(41_sensor_decoder.md R134, R141, R143, R147, R151; 42_phase_actuator.md R171; 44_control_loop.md R211). -/
structure Run where
  served : Option Caller
  held : List Held
  pcaReadBlocked : Bool
  stage : LoopStage
  tLock : Nat
  freshStart : Bool
  freshRcv : Bool
  freshRead : Bool
  freshLock : Bool
  picks : Nat
  deriving DecidableEq, Repr

/-- One input of the outside, or the choice of which agent moves next (00_scope.md R13; 20_memory.md R68). -/
inductive Input where
  /-- the host writes an operand register (10_state.md R21) -/
  | writeA0 (v : Word)
  | writeA1 (v : Word)
  | writeA2 (v : Word)
  /-- the host supplies the operand string of FX_PARSE (30_encoding.md R95) -/
  | writeStr (cs : List Char)
  /-- the host writes `cmd.op`, which issues the operation (10_state.md R21) -/
  | issue (op : Byte)
  /-- Level S: an event with its payload word (30_encoding.md R96) -/
  | event (code : Byte) (payload : Word)
  /-- Level T: one tick of 1 us with the sensor's pull on the data line and the detector's level. `consume`: a sample
  present is taken by the sequencer on this very tick (41_sensor_decoder.md R151 step 3). -/
  | tick (sensorLow zc consume : Bool)
  /-- the host's blocked SWD_READ completes (41_sensor_decoder.md R143) -/
  | swdReturn
  /-- the host's blocked PCA_READ completes (42_phase_actuator.md R171) -/
  | pcaReturn
  /-- the LOOP task runs its next operation (44_control_loop.md R211) -/
  | loopStep
  /-- Level S: `T_LOCK` ticks of the lock wait have passed (20_memory.md R74) -/
  | lockExpire
  /-- Level S: the deadline of the k-th held SWD_READ has passed (41_sensor_decoder.md R141) -/
  | heldExpire (k : Nat)
  /-- a collaborator acquires, or releases, the configuration lock (20_memory.md R60, R74) -/
  | lockTake
  | lockGive
  /-- the collaborators' values (44_control_loop.md R210) -/
  | extCfg (c : LoopCfg)
  | extIsDay (b : Bool)
  | extNow (v : Word)
  deriving DecidableEq, Repr

/-- The whole machine. `conf` is constant in every step (log 3); `trace` is what the outside will do (log 1). -/
structure State where
  conf : Config
  cmd : Cmd
  swd : Swd
  cli : Cli
  cap : Cap
  pca : Pca
  pid : Pid
  loop : Loop
  cfgLock : Bool
  ext : Ext
  run : Run
  trace : List Input
  deriving DecidableEq, Repr

abbrev Result := Host.Outcome State Fault Refusal

def LoopCfg.zero : LoopCfg := ⟨0, 0, 0, 0, 0, 0, 0, false⟩

def Packet.zero : Packet := Vector.replicate 5 0

/-- The reset state of a machine with the given parameters (10_state.md R44, 70_reset_and_hazards.md R260): every
register, flag, counter, buffer and timer is 0, `swd.phase = IDLE`, `pca.a_first = 1`, and the table is all 0. The
ports `ext`, the previous pin levels and the model's own fields: log 2. -/
def State.resetWith (c : Config) : State where
  conf := c
  cmd := ⟨0, 0, 0, 0, 0, 0, 0, [], []⟩
  swd :=
    { phase := .idle, bit := 0, sig := false, irqEn := false, lineDrive := false, busy := false, sample := 0
      buf := Packet.zero, gen := 0, humidity := 0, temperature := 0, tStart := 0, tWait := 0, tRcv := 0 }
  cli := ⟨false, Packet.zero, 0⟩
  cap := { cnt := 0, lowLatch := 0, first := false, prev := true }
  pca :=
    { level := 0, phaseEntry := 0, width := 0, bypass := false, sample := 0, sig := false, irqEn := false
      aCnt := 0, aHigh := 0, aFirst := true, aPrev := false, bLoad := 0, bCnt := 0, bRun := false
      cReload := 0, cCnt := 0, cRun := false, table := List.replicate (c.pcaMax + 1) 0, tRead := 0 }
  pid := ⟨0, 0, 0, 0, 0, 0, 0, 0, false⟩
  loop := ⟨LoopCfg.zero, 0, 0, false, 0⟩
  cfgLock := false
  ext := ⟨LoopCfg.zero, false, 0⟩
  run :=
    { served := none, held := [], pcaReadBlocked := false, stage := .idle, tLock := 0
      freshStart := false, freshRcv := false, freshRead := false, freshLock := false, picks := 0 }
  trace := []

/-- The machine right after reset (70_reset_and_hazards.md R260, R261), with the parameters of `Config.example`. -/
def State.reset : State := State.resetWith Config.example

end Sys2Proof.Machine
end

