-- ==== Sys2Proof/Machine/Flags.lean ====
section
/-!
DEFINITION. Status codes (60_exceptions.md R226), the overflow predicate of the fixed-point rules (40_fixed_point.md
R110), and the derived mode and drive output (10_state.md R31, 42_phase_actuator.md R168).
-/
namespace Sys2Proof.Machine

def statusOk : Byte := 0
def statusIrqTimeout : Byte := 1
def statusTimeout : Byte := 2
def statusDecodeError : Byte := 3
def statusChecksumError : Byte := 4
def statusRcvTimeout : Byte := 5
def statusNoSignal : Byte := 6
def statusFxDivZero : Byte := 7
def statusFxParseError : Byte := 8
def statusBadOp : Byte := 0xFF

/-- `fits_32(v)` (00_scope.md R8): the predicate "beside each operation" that R110 asks for. -/
def fits32 (v : Int) : Bool := decide (-2147483648 ≤ v ∧ v < 2147483648)

/-- `fits_16(v)` (00_scope.md R8). -/
def fits16 (v : Int) : Bool := decide (-32768 ≤ v ∧ v < 32768)

/-- `pca_mode` (10_state.md R31). -/
inductive PcaMode where
  | on
  | off
  | phase
  deriving DecidableEq, Repr

def pcaMode (s : State) : PcaMode :=
  if s.pca.bypass then .on else if s.pca.width = 0 then .off else .phase

/-- `pca.drive = pca.bypass or (pca.c_run and pca.c_cnt < pca.width)` (42_phase_actuator.md R168). -/
def pcaDrive (s : State) : Bool :=
  s.pca.bypass || (s.pca.cRun && decide (s.pca.cCnt.toNat < s.pca.width.toNat))

/-- The level of the data pin: 0 while the core or the sensor pulls it low, else 1 (41_sensor_decoder.md R150). -/
def linePin (sensorLow : Bool) (s : State) : Bool := !(s.swd.lineDrive || sensorLow)

end Sys2Proof.Machine
end

