-- ==== Sys2Proof/Machine/Ops.lean ====
section
/-!
DEFINITION. Shared operations: exact arithmetic and narrowing (00_scope.md R8), sample classification
(30_encoding.md R83 to R85), the packet (R86, R87), signals (20_memory.md R70), the end of an exchange, which is how
the decoder raises an error (00_scope.md R9, 41_sensor_decoder.md R140), and its return at the host (R143).
-/
namespace Sys2Proof.Machine

/-! ### Numbers (00_scope.md R8) -/

/-- `v >>a n`: the arithmetic right shift over Z, `floor(v / 2^n)`. -/
def asr (v : Int) (n : Nat) : Int := v / ((2 ^ n : Nat) : Int)

/-- `v << n` over Z. -/
def shl (v : Int) (n : Nat) : Int := v * ((2 ^ n : Nat) : Int)

/-- `tdiv(a, b)`: toward zero; a rule uses it only for `b != 0`. -/
def tdiv (a b : Int) : Int := Int.tdiv a b

/-- `wrap_32(v)` and `uwrap_32(v)`: the 32-bit value congruent to `v`. -/
def wrap32 (v : Int) : Word := BitVec.ofInt 32 v

/-- `wrap_16(v)` and `uwrap_16(v)`. -/
def wrap16 (v : Int) : Half := BitVec.ofInt 16 v

/-- `clamp(v, lo, hi)`: `lo` if `v < lo`, else `hi` if `v > hi`, else `v`. -/
def clamp (v lo hi : Int) : Int := if v < lo then lo else if v > hi then hi else v

/-- `sext_32` of an `i16`. -/
def sext32 (h : Half) : Word := h.signExtend 32

/-- `zext_32` of a `u16`. -/
def zext32 (h : Half) : Word := h.zeroExtend 32

/-! ### Classification (00_scope.md R11; 30_encoding.md R83 to R85) -/

/-- `match(x, v)`: half-width `v div 2`, both edges inclusive (the spec's decision D8). -/
def inWindow (x : Int) (v : Nat) : Bool :=
  decide ((v : Int) - ((v / 2 : Nat) : Int) ≤ x ∧ x ≤ (v : Int) + ((v / 2 : Nat) : Int))

/-- What a Capture Sample decodes to (30_encoding.md R84). -/
inductive Symbol where
  | invalid
  | start
  | bit0
  | bit1
  | timeout
  deriving DecidableEq, Repr

/-- `s.low` as an integer. -/
def sampleLow (w : Word) : Int := ((sampleSecond w).toNat : Int)

/-- `high = period - low` over Z (30_encoding.md R82: "negative when `low > period`"). -/
def sampleHigh (w : Word) : Int := ((samplePeriod w).toNat : Int) - ((sampleSecond w).toNat : Int)

/-- 30_encoding.md R84, phase WAIT_START. -/
def classifyStart (c : Config) (w : Word) : Symbol :=
  if samplePeriod w = 0 then .timeout
  else if inWindow (sampleLow w) c.vStartLow && inWindow (sampleHigh w) c.vStartHigh then .start
  else .invalid

/-- 30_encoding.md R84, phase WAIT_BIT: the BIT1 test comes before the BIT0 test. -/
def classifyBit (c : Config) (w : Word) : Symbol :=
  if samplePeriod w = 0 then .timeout
  else if inWindow (sampleLow w) c.vBitLow && inWindow (sampleHigh w) c.vOneHigh then .bit1
  else if inWindow (sampleLow w) c.vBitLow && inWindow (sampleHigh w) c.vZeroHigh then .bit0
  else .invalid

/-! ### The packet (20_memory.md R61; 30_encoding.md R86, R87) -/

/-- One bit of a byte written: `v[i] <- b`. -/
def setBit (v : Byte) (i : Nat) (b : Bool) : Byte :=
  if b then v ||| BitVec.twoPow 8 i else v &&& ~~~(BitVec.twoPow 8 i)

/-- `buf[i div 8][7 - (i mod 8)] <- b`: most significant bit first (the spec's decision D12). -/
def storeBit (buf : Packet) (i : Nat) (b : Bool) : Packet :=
  buf.setIfInBounds (i / 8) (setBit (buf[i / 8]?.getD 0) (7 - i % 8) b)

/-- Data bit `i` of the packet, in arrival order. -/
def packetBit (buf : Packet) (i : Nat) : Bool := (buf[i / 8]?.getD 0).getLsbD (7 - i % 8)

def checksumOk (buf : Packet) : Bool :=
  decide ((buf[0].toNat + buf[1].toNat + buf[2].toNat + buf[3].toNat) % 256 = buf[4].toNat)

/-- `humidity(buf)`, narrowed by `wrap_16`. -/
def humidityOf (buf : Packet) : Half := wrap16 ((buf[0].toNat * 256 + buf[1].toNat : Nat) : Int)

/-- `temperature(buf)`: bit 15 of the raw value is a sign flag, not two's complement. -/
def temperatureOf (buf : Packet) : Half :=
  let raw := buf[2].toNat * 256 + buf[3].toNat
  let mag : Int := ((raw % 32768 : Nat) : Int)
  wrap16 (if raw ≥ 32768 then -mag else mag)

/-! ### The decoder's shared operations -/

/-- The two phases in which the sequencer waits for a sample (41_sensor_decoder.md R136, R137). -/
abbrev Waiting (s : State) : Prop := s.swd.phase = .waitStart ∨ s.swd.phase = .waitBit

/-- The interrupt's effect: store the sample as one word and release the signal (41_sensor_decoder.md R138, R139;
20_memory.md R62, R72: it overwrites, and a signal already 1 stays 1). -/
def storeSample (w : Word) (s : State) : State :=
  { s with swd.sample := w, swd.sig := true }

/-- `swd_finish(e)` (41_sensor_decoder.md R140): RAISING a decoder error (`swd_fail(e)`, codes 1 to 4) and
`swd_complete()` (code 0) are this one operation. -/
def swdFinish (e : Byte) (s : State) : State :=
  { s with
    swd.irqEn := false, swd.sig := false
    swd.tWait := 0, swd.tStart := 0, swd.tRcv := 0
    swd.phase := .idle
    cli.buf := s.swd.buf, cli.err := e
    swd.busy := false
    cli.done := true }

/-- The RETURN of an exchange: the caller takes the completion signal (41_sensor_decoder.md R143). On an error the
readings and the result registers keep their values. -/
def takeCompletion (s : State) : State :=
  let s1 := { s with cli.done := false, cmd.status := s.cli.err, run.served := none }
  if s.cli.err = statusOk then
    { s1 with
      swd.temperature := temperatureOf s.cli.buf, swd.humidity := humidityOf s.cli.buf
      cmd.r0 := sext32 (temperatureOf s.cli.buf), cmd.r1 := sext32 (humidityOf s.cli.buf) }
  else s1

/-- Acceptance of an SWD_READ into the in-flight slot (41_sensor_decoder.md R133, 20_memory.md R71). -/
def acceptRead (c : Caller) (timeout : Word) (s : State) : State :=
  { s with
    swd.busy := true, swd.gen := s.swd.gen + 1
    swd.buf := Packet.zero, swd.bit := 0, cli.err := 0
    swd.lineDrive := true
    swd.phase := .startPulse, swd.tStart := s.conf.tStart, swd.tRcv := timeout
    run.served := some c }

/-- Another caller than `c`. -/
def Caller.other : Caller → Caller
  | .host => .loop
  | .loop => .host

/-- Issue of an SWD_READ by a caller (41_sensor_decoder.md R133, R134; U1, U3). `fresh`: the host issues it before the
tick on which it counts first (log 8). A read is held while the slot is busy, or while another caller's completion is
not yet taken (log 6). -/
def submitRead (c : Caller) (timeout : Word) (fresh : Bool) (s : State) : Result :=
  if timeout.toInt ≤ 0 then .refused .timeoutNotPositive
  else if s.cli.done = true ∧ s.run.served ≠ some c.other then .refused .completionNotFresh
  else if s.swd.busy = true ∨ s.cli.done = true then
    .next { s with run.held := s.run.held ++ [⟨c, timeout, fresh⟩] }
  else .next { acceptRead c timeout s with run.freshStart := fresh, run.freshRcv := fresh }

/-- What happens to LOOP_TICK when its SWD_READ ends by its deadline: the task goes on with status 5. -/
def deadlineStage (c : Caller) (st : LoopStage) : LoopStage :=
  match c with
  | .host => st
  | .loop => .record statusRcvTimeout

/-- SWD_DEADLINE of the command being served: the exchange is cancelled, nothing signals the caller
(41_sensor_decoder.md R141). -/
def cancelServed (s : State) : State :=
  { s with
    swd.irqEn := false, swd.sig := false, swd.lineDrive := false
    swd.tWait := 0, swd.tStart := 0, swd.tRcv := 0
    swd.phase := .idle, swd.busy := false
    cli.err := statusRcvTimeout, cmd.status := statusRcvTimeout
    run.stage := deadlineStage (s.run.served.getD .host) s.run.stage
    run.served := none }

/-- The deadline of a held command: "only `cli.err <- 5` and `cmd.status <- 5`" (R141); it leaves the queue. -/
def cancelHeld (h : Held) (rest : List Held) (s : State) : State :=
  { s with
    cli.err := statusRcvTimeout, cmd.status := statusRcvTimeout
    run.held := rest
    run.stage := deadlineStage h.caller s.run.stage }

/-- A held command enters the slot with what is left of its own deadline. -/
def acceptHeld (h : Held) (rest : List Held) (s : State) : State :=
  let s1 := acceptRead h.caller h.left s
  { s1 with run.held := rest, run.freshStart := false, run.freshRcv := h.fresh }

/-- After every step: a held SWD_READ "is accepted by rule R133 at the first step after which `swd.busy = 0`"
(41_sensor_decoder.md R134), its precondition `cli.done = 0` included (log 6). Which of several is a free value (U11,
log 5). -/
def settle (s : State) : State :=
  if s.swd.busy = true ∨ s.cli.done = true then s
  else
    match s.run.held with
    | [] => s
    | [h] => acceptHeld h [] s
    | h :: hs =>
      let k := Config.heldPick s.run.picks % (h :: hs).length
      let s1 := acceptHeld ((h :: hs)[k]?.getD h) ((h :: hs).eraseIdx k) s
      { s1 with run.picks := s.run.picks + 1 }

/-- Sequencing of outcomes: a pure operation after a step. -/
def andThen (f : State → State) : Result → Result
  | .next s => .next (f s)
  | .fault r => .fault r
  | .refused r => .refused r

end Sys2Proof.Machine
end

