-- ==== Sys2Proof/Machine/Operands.lean ====
section
/-!
DEFINITION. Operand and result registers (10_state.md R21, 30_encoding.md R97): every operand occupies a whole 32-bit
register and is read as the signed integer it denotes; a result register is written whole.
-/
namespace Sys2Proof.Machine

/-- `a0` as the integer of an `fx` or `i32` operand. -/
def opA0 (s : State) : Int := s.cmd.a0.toInt

/-- `a1` as an integer. -/
def opA1 (s : State) : Int := s.cmd.a1.toInt

/-- `a2` as an integer. -/
def opA2 (s : State) : Int := s.cmd.a2.toInt

/-- `cmd.r0 <- v`. -/
def putR0 (v : Word) (s : State) : State := { s with cmd.r0 := v }

/-- `cmd.r1 <- v`. -/
def putR1 (v : Word) (s : State) : State := { s with cmd.r1 := v }

/-- `cmd.status <- v`. -/
def putStatus (v : Byte) (s : State) : State := { s with cmd.status := v }

/-- An operation's result in `r0` and its success: status OK (60_exceptions.md R226; log 25). -/
def putResult (v : Word) (s : State) : State := putStatus statusOk (putR0 v s)

/-- The result string of FX_FORMAT. -/
def putString (cs : List Char) (s : State) : State := { s with cmd.strOut := cs }

end Sys2Proof.Machine
end

