-- ==== Sys2Proof/Machine/Pca.lean ====
section
/-!
DEFINITION. The AC phase-control actuator: its commands, its interrupt handler and its counter events
(42_phase_actuator.md R162 to R172).
-/
namespace Sys2Proof.Machine

/-- Every entry at most the one before it (R163: "for `0 <= a < b <= PCA_MAX`, `PCA_TABLE[a] >= PCA_TABLE[b]`"). -/
def nonIncreasing : List Word → Bool
  | [] => true
  | [_] => true
  | x :: y :: rest => decide (y.toNat ≤ x.toNat) && nonIncreasing (y :: rest)

/-- The constraints of R163, and `PCA_MAX >= 2` (00_scope.md R6). A configuration that breaks them is refused (U5). -/
def phaseTableOk (c : Config) : Bool :=
  decide (2 ≤ c.pcaMax) && decide (c.pcaTable.length = c.pcaMax + 1)
    && c.pcaTable.all (fun e => decide (e.toNat ≤ 2 ^ c.pcaShift)) && nonIncreasing c.pcaTable

/-- An entry of the phase table in force (20_memory.md R65). -/
def tableEntry (s : State) (i : Nat) : Word := s.pca.table[i]?.getD 0

/-- PCA_INIT (R162): allowed once. "Initialised" is `pca.irq_en = 1`, which nothing else sets and nothing clears. -/
def execPcaInit (s : State) : Result :=
  if s.pca.irqEn = true then .refused .pcaAlreadyInitialised
  else if phaseTableOk s.conf then
    .next { s with
      pca.table := s.conf.pcaTable
      pca.level := 0, pca.phaseEntry := s.conf.pcaTable[0]?.getD 0, pca.width := 0, pca.bypass := false
      pca.irqEn := true, cmd.status := statusOk }
  else .refused .phaseTableIllFormed

/-- `set(value)` (R165; 30_encoding.md R90): off, on, or phase control; one atomic step. -/
def setLevel (value : Word) (s : State) : Result :=
  let v := value.toInt
  let s1 := { s with pca.level := value, cmd.status := statusOk }
  if s.pca.irqEn = false then .refused .pcaNotInitialised
  else if v ≤ 0 then .next { s1 with pca.bypass := false, pca.width := 0 }
  else if v ≥ (s.conf.pcaMax : Int) then .next { s1 with pca.bypass := true, pca.width := 0 }
  else
    .next { s1 with
      pca.bypass := false, pca.width := s.conf.pcaPulseW, pca.phaseEntry := tableEntry s v.toNat }

/-- PCA_SET (R165). -/
def execPcaSet (s : State) : Result := setLevel s.cmd.a0 s

/-- `half = period >>a 1` (R166). -/
def halfPeriod (period : Half) : Int := asr (period.toNat : Int) 1

/-- `delay = ((offset - half) >>a 1) + ((phase_entry * half) >>a PCA_SHIFT)`, exact and signed (R166). -/
def phaseDelay (shift : Nat) (entry : Word) (period offset : Half) : Int :=
  asr ((offset.toNat : Int) - halfPeriod period) 1 + asr ((entry.toNat : Int) * halfPeriod period) shift

/-- The zero-crossing handler (R166), which also restarts Counter B. The sample is overwritten, and a signal already 1
stays 1 (20_memory.md R72). -/
def zeroCrossing (period offset : Half) (s : State) : State :=
  { s with
    pca.sample := packSample period offset, pca.sig := true
    pca.cReload := wrap16 (halfPeriod period - 1)
    pca.bLoad := wrap16 (phaseDelay s.conf.pcaShift s.pca.phaseEntry period offset)
    pca.bCnt := 0, pca.bRun := true }

/-- PCA_IRQ_ZC (R166). -/
def execPcaIrqZc (period offset : Half) (s : State) : Result :=
  if s.pca.irqEn = true then .next (zeroCrossing period offset s) else .refused .pcaInterruptDisabled

/-- Counter B's expiry retriggers Counter C (R169). -/
def bExpire (s : State) : State :=
  { s with pca.bRun := false, pca.cCnt := 0, pca.cRun := true }

/-- PCA_B_EXPIRE (R169). -/
def execPcaBExpire (s : State) : Result :=
  if s.pca.bRun = true then .next (bExpire s) else .refused .counterBStopped

/-- Counter C reloads itself (R170). -/
def cReload (s : State) : State := { s with pca.cCnt := 0 }

/-- PCA_C_RELOAD (R170). -/
def execPcaCReload (s : State) : Result :=
  if s.pca.cRun = true then .next (cReload s) else .refused .counterCStopped

/-- PCA_READ (R171): its entry step; the stale signal is cleared. It ends by the host's completion or by
PCA_READ_EXPIRE. A second one while one is blocked: DESIGN CHOICE, log 12. -/
def execPcaRead (s : State) : Result :=
  .next { s with
    pca.sig := false, pca.tRead := s.conf.tPcaRead
    run.pcaReadBlocked := true, run.freshRead := true }

/-- What the completion of PCA_READ does (R171): take the signal, one atomic read of the sample, the two fields and the
status to the host. -/
def completeRead (s : State) : State :=
  { s with
    pca.sig := false, pca.tRead := 0
    cmd.r0 := zext32 (samplePeriod s.pca.sample), cmd.r1 := zext32 (sampleSecond s.pca.sample)
    cmd.status := statusOk
    run.pcaReadBlocked := false }

/-- The completion of PCA_READ at the host (R171), on a step of its own. -/
def pcaCompletes (s : State) : Result :=
  if s.run.pcaReadBlocked = true ∧ s.pca.sig = true then .next (completeRead s) else .refused .taskBlocked

/-- A completion that is due runs before the next zero crossing, at the latest: the wait "ends at `PCA_IRQ_ZC`"
(20_memory.md R66), and "two zero crossings inside the window return the sample of the first" (R171). DEDUCED, log 30. -/
def readDue (s : State) : State :=
  if s.run.pcaReadBlocked = true ∧ s.pca.sig = true then completeRead s else s

/-- The diagnostic window ends without a crossing (R172): NO_SIGNAL, and the command returns. The window timer has run
out (log 4). -/
def readExpires (s : State) : State :=
  { s with cmd.status := statusNoSignal, pca.tRead := 0, run.pcaReadBlocked := false }

/-- PCA_READ_EXPIRE (R172). -/
def execPcaReadExpire (s : State) : Result :=
  if s.run.pcaReadBlocked = true ∧ s.pca.sig = false then .next (readExpires s) else .refused .readWindowOpen

end Sys2Proof.Machine
end

