-- ==== Sys2Proof/Machine/Fxp.lean ====
section
/-!
DEFINITION. Fixed-point arithmetic, the FX_* commands (40_fixed_point.md R110 to R120). Intermediates are exact
integers; a result is narrowed by `wrap_32`. An operation that succeeds reports status OK (60_exceptions.md R226, row 0;
10_state.md R21: "the core writes `r0`, `r1` and `status` when the operation completes"; log 25).
-/
namespace Sys2Proof.Machine

/-- `fx_mul_wide(a, b) = (a * b) >>a FX_FRAC` (R113). -/
def fxMulWide (f : Nat) (a b : Int) : Int := asr (a * b) f

/-- `fx_div_wide(a, b) = tdiv(a << FX_FRAC, b)` (R114), for `b != 0`. -/
def fxDivWide (f : Nat) (a b : Int) : Int := tdiv (shl a f) b

/-- The exact results whose `fits_32` is the "no overflow" premise (R110). -/
def fxAddExact (a b : Int) : Int := a + b
def fxSubExact (a b : Int) : Int := a - b
def fxFromIntExact (f : Nat) (n : Int) : Int := shl n f

/-- R111: `r0 <- wrap_32(a + b)`. -/
def execFxAdd (s : State) : Result := .next (putResult (wrap32 (fxAddExact (opA0 s) (opA1 s))) s)

/-- R112: `r0 <- wrap_32(a - b)`. -/
def execFxSub (s : State) : Result := .next (putResult (wrap32 (fxSubExact (opA0 s) (opA1 s))) s)

/-- R113: the product exact, scaled down toward minus infinity. -/
def execFxMul (s : State) : Result := .next (putResult (wrap32 (fxMulWide s.conf.fxFrac (opA0 s) (opA1 s))) s)

/-- R114: a zero divisor gives status 7 and leaves `r0`. -/
def execFxDiv (s : State) : Result :=
  if opA1 s = 0 then .next (putStatus statusFxDivZero s)
  else .next (putResult (wrap32 (fxDivWide s.conf.fxFrac (opA0 s) (opA1 s))) s)

/-- R115: `r0 <- wrap_32(n << FX_FRAC)`. -/
def execFxFromInt (s : State) : Result := .next (putResult (wrap32 (fxFromIntExact s.conf.fxFrac (opA0 s))) s)

/-- R116: `r0 <- a >>a FX_FRAC`. -/
def execFxToInt (s : State) : Result := .next (putResult (wrap32 (asr (opA0 s) s.conf.fxFrac)) s)

/-- R117: compared as signed integers, bounds not reordered. -/
def execFxClamp (s : State) : Result := .next (putResult (wrap32 (clamp (opA0 s) (opA1 s) (opA2 s))) s)

/-! ### Strings -/

/-- The value of a decimal digit. -/
def digitOf (c : Char) : Option Nat :=
  if 48 ≤ c.toNat ∧ c.toNat ≤ 57 then some (c.toNat - 48) else none

/-- The digits of a string all of whose characters are decimal digits. -/
def digitsOf : List Char → Option (List Nat)
  | [] => some []
  | c :: cs =>
    match digitOf c, digitsOf cs with
    | some d, some ds => some (d :: ds)
    | _, _ => none

/-- The integer that decimal digits denote, most significant first. -/
def digitsValue (ds : List Nat) : Nat := ds.foldl (fun acc d => acc * 10 + d) 0

/-- A string cut at its first `.`: what stands before it, and what stands after it if there is one. -/
def splitPoint : List Char → List Char × Option (List Char)
  | [] => ([], none)
  | c :: cs =>
    if c = '.' then ([], some cs)
    else
      let r := splitPoint cs
      (c :: r.1, r.2)

/-- An optional sign `+` or `-`: whether it is `-`, and the rest. -/
def splitSign : List Char → Bool × List Char
  | [] => (false, [])
  | c :: cs => if c = '-' then (true, cs) else if c = '+' then (false, cs) else (false, c :: cs)

/-- The magnitude: `I * 2^FX_FRAC + floor(F * 2^FX_FRAC / 10^n)` (R118). -/
def parseMagnitude (f : Nat) (ip fp : List Nat) : Nat :=
  digitsValue ip * 2 ^ f + digitsValue fp * 2 ^ f / 10 ^ fp.length

/-- The exact value of a string of the grammar of R118: optional sign, one or more digits, optionally a point followed
by zero or more digits; none outside it. -/
def parseExact (f : Nat) (cs : List Char) : Option Int :=
  let sgn := splitSign cs
  let cut := splitPoint sgn.2
  match digitsOf cut.1, digitsOf (cut.2.getD []) with
  | some (d :: ip), some fp =>
    let mag : Int := (parseMagnitude f (d :: ip) fp : Int)
    some (if sgn.1 then -mag else mag)
  | _, _ => none

/-- R118: a string outside the grammar gives status 8 and leaves `r0`. -/
def execFxParse (s : State) : Result :=
  match parseExact s.conf.fxFrac s.cmd.str with
  | some v => .next (putResult (wrap32 v) s)
  | none => .next (putStatus statusFxParseError s)

def digitChar (d : Nat) : Char := Char.ofNat (48 + d)

/-- Decimal digits of `n`, least significant last, with fuel (`n + 1` is enough). -/
def decimalAux : Nat → Nat → List Char → List Char
  | 0, _, acc => acc
  | fuel + 1, n, acc =>
    if n < 10 then digitChar n :: acc else decimalAux fuel (n / 10) (digitChar (n % 10) :: acc)

/-- `decimal(n)`. -/
def decimal (n : Nat) : List Char := decimalAux (n + 1) n []

/-- `n` as exactly `d` digits, zero padded (its low `d` decimal digits). -/
def paddedDigits : Nat → Nat → List Char → List Char
  | 0, _, acc => acc
  | d + 1, n, acc => paddedDigits d (n / 10) (digitChar (n % 10) :: acc)

/-- `scaled`: the magnitude in units of 10^-D, rounded half up (R119). -/
def formatScaled (f d : Nat) (a : Int) : Nat := (a.natAbs * 10 ^ d + 2 ^ (f - 1)) / 2 ^ f

/-- R119: the decimal string of a fixed-point value. -/
def formatFx (f d : Nat) (a : Int) : List Char :=
  let scaled := formatScaled f d a
  let sign : List Char := if a < 0 ∧ scaled ≠ 0 then ['-'] else []
  sign ++ decimal (scaled / 10 ^ d) ++ '.' :: paddedDigits d (scaled % 10 ^ d) []

/-- R119: the result is a character string; no result register is written. -/
def execFxFormat (s : State) : Result :=
  .next (putStatus statusOk (putString (formatFx s.conf.fxFrac s.conf.fxFmtDigits (opA0 s)) s))

end Sys2Proof.Machine
end

