-- ==== Sys2Proof/Machine/PidCtl.lean ====
section
/-!
DEFINITION. The PID controller (43_pid.md R190 to R198). Intermediates are exact integers; a value is narrowed only
where it is stored into PID state (R190, 90_conflicts.md C7). Each reports status OK (60_exceptions.md R226; log 25).
-/
namespace Sys2Proof.Machine

/-- `pid_reclamp(I)` (R191). -/
def pidReclamp (f : Nat) (p : Pid) (i : Int) : Int :=
  let ki := p.ki.toInt
  let iterm := fxMulWide f ki i
  if ki = 0 then i
  else if iterm > p.high.toInt then fxDivWide f p.high.toInt ki
  else if iterm < p.low.toInt then fxDivWide f p.low.toInt ki
  else i

/-- `dt <- wrap_32(timestamp - pid.prev_ts)` (R192). -/
def pidDt (p : Pid) (timestamp : Word) : Int := (wrap32 (timestamp.toInt - p.prevTs.toInt)).toInt

/-- The accumulator a later call stores (R192). -/
def pidIntegral (f : Nat) (p : Pid) (error dt : Int) : Word :=
  wrap32 (pidReclamp f p (p.integral.toInt + fxMulWide f error dt))

/-- The derivative; 0 where `dt = 0` (R194). -/
def pidDeriv (f : Nat) (p : Pid) (error dt : Int) : Int :=
  if dt = 0 then 0 else fxDivWide f (error - p.prevError.toInt) dt

/-- The output of the first call (R193). -/
def pidFirstOut (f : Nat) (p : Pid) (error : Int) : Int :=
  clamp (fxMulWide f p.kp.toInt error) p.low.toInt p.high.toInt

/-- The output of a later call, from the STORED accumulator `i` (R192). -/
def pidLaterOut (f : Nat) (p : Pid) (error dt : Int) (i : Word) : Int :=
  clamp (fxMulWide f p.kp.toInt error + fxMulWide f p.ki.toInt i.toInt + fxMulWide f p.kd.toInt (pidDeriv f p error dt))
    p.low.toInt p.high.toInt

/-- `compute(input, setpoint, timestamp)` (R192 to R195). -/
def pidStep (input setpoint timestamp : Word) (s : State) : Result :=
  let f := s.conf.fxFrac
  let error : Int := setpoint.toInt - input.toInt
  let seed := { s with pid.prevError := wrap32 error, pid.prevTs := timestamp, pid.hasPrev := true, cmd.status := statusOk }
  if s.pid.hasPrev = false then
    .next { seed with cmd.r0 := wrap32 (pidFirstOut f s.pid error) }
  else
    let dt := pidDt s.pid timestamp
    if dt < 0 then .refused .timestampBackwards
    else
      let i := pidIntegral f s.pid error dt
      .next { seed with pid.integral := i, cmd.r0 := wrap32 (pidLaterOut f s.pid error dt i) }

/-- PID_COMPUTE (R192). -/
def execPidCompute (s : State) : Result := pidStep s.cmd.a0 s.cmd.a1 s.cmd.a2 s

/-- `set_coef` (R196): the gains, and nothing else of the PID state. -/
def setCoef (kp ki kd : Word) (s : State) : State :=
  { s with pid.kp := kp, pid.ki := ki, pid.kd := kd, cmd.status := statusOk }

/-- PID_SET_COEF (R196). -/
def execPidSetCoef (s : State) : Result := .next (setCoef s.cmd.a0 s.cmd.a1 s.cmd.a2 s)

/-- `set_limits` (R197): the bounds, then the accumulator reclamped under the new bounds. -/
def setLimits (low high : Word) (s : State) : State :=
  let p := { s.pid with low := low, high := high }
  { s with pid := { p with integral := wrap32 (pidReclamp s.conf.fxFrac p p.integral.toInt) }, cmd.status := statusOk }

/-- PID_SET_LIMITS (R197). -/
def execPidSetLimits (s : State) : Result := .next (setLimits s.cmd.a0 s.cmd.a1 s)

end Sys2Proof.Machine
end

