-- ==== Sys2Proof/Machine/Swd.lean ====
section
/-!
DEFINITION. The single-wire decoder: its command, sequencer transitions, interrupt handlers and symbols
(41_sensor_decoder.md R133 to R143; 30_encoding.md R84). The operations that raise and end an exchange are in Ops.lean.
-/
namespace Sys2Proof.Machine

/-- SWD_READ (R133, R134): its entry step. It ends by the host's completion, or by SWD_DEADLINE. -/
def execSwdRead (s : State) : Result := submitRead .host s.cmd.a0 true s

/-- R135: release the line and arm the capture unit. -/
def startDone (s : State) : State :=
  { s with
    swd.lineDrive := false
    swd.sig := false
    swd.irqEn := true, cap.first := true, cap.cnt := 0, cap.lowLatch := 0
    swd.phase := .waitStart, swd.tWait := s.conf.tWait }

/-- SWD_START_DONE (R135). The event says that the start timer has run out, so `swd.t_start` reads 0 (log 4). -/
def execSwdStartDone (s : State) : Result :=
  if s.swd.phase = .startPulse then .next { startDone s with swd.tStart := 0 } else .refused .noStartPulse

/-- The symbol the captured sample decodes to; which table applies depends on the sequencer's position (R84). -/
def currentSymbol (s : State) : Symbol :=
  if s.swd.phase = .waitStart then classifyStart s.conf s.swd.sample else classifyBit s.conf s.swd.sample

/-- The symbol BIT0 or BIT1 in phase WAIT_BIT (R136): store the bit, and after bit number N_BITS = 40 test the checksum. -/
def takeBit (b : Bool) (s : State) : State :=
  let s1 := { s with swd.buf := storeBit s.swd.buf s.swd.bit b, swd.bit := s.swd.bit + 1 }
  if s.swd.bit + 1 = s.conf.nBits then
    swdFinish (if checksumOk s1.swd.buf then statusOk else statusChecksumError) s1
  else { s1 with swd.tWait := s.conf.tWait }

/-- The symbol START in phase WAIT_START (R136). -/
def takeStart (s : State) : State :=
  { s with swd.phase := .waitBit, swd.bit := 0, swd.tWait := s.conf.tWait }

/-- What the sequencer does with a symbol once it has taken the signal (R136). -/
def symbolEffect (sym : Symbol) (s : State) : State :=
  match sym with
  | .invalid => swdFinish statusDecodeError s
  | .start => takeStart s
  | .bit0 => takeBit false s
  | .bit1 => takeBit true s
  | .timeout => swdFinish statusTimeout s

/-- Take the signal, read the sample once, decode it, act (R136). -/
def consumeSample (s : State) : State := symbolEffect (currentSymbol s) { s with swd.sig := false }

/-- SWD_CONSUME (R136). -/
def execSwdConsume (s : State) : Result :=
  if Waiting s ∧ s.swd.sig = true then .next (consumeSample s) else .refused .nothingToConsume

/-- SWD_WAIT_EXPIRE (R137): a signal present at the expiry is consumed instead. -/
def execSwdWaitExpire (s : State) : Result :=
  if Waiting s ∧ s.swd.sig = false then .next (swdFinish statusIrqTimeout s) else .refused .waitNotExpired

/-- SWD_IRQ_CAPTURE (R138); with `period = 0` it is refused (DEDUCED, log 14). -/
def execSwdIrqCapture (period low : Half) (s : State) : Result :=
  if period = 0 then .refused .captureZeroPeriod
  else if s.swd.irqEn = true then .next (storeSample (packSample period low) s)
  else .refused .swdInterruptsDisabled

/-- SWD_IRQ_CAPTO (R139): `period = 0` marks the timeout. -/
def execSwdIrqCapto (s : State) : Result :=
  if s.swd.irqEn = true then .next (storeSample (packSample 0 0) s) else .refused .swdInterruptsDisabled

/-- SWD_DEADLINE (R141). Level S does not say whose deadline it is: the served command's where there is one, else the
first held one's (log 7). -/
def execSwdDeadline (s : State) : Result :=
  if s.swd.busy = true ∧ s.cli.done = false then .next (cancelServed s)
  else
    match s.run.held with
    | [] => .refused .noReadOutstanding
    | h :: hs => .next (cancelHeld h hs s)

/-- The deadline of the k-th held command (R141; log 7). -/
def heldDeadline (k : Nat) (s : State) : Result :=
  match s.run.held[k]? with
  | none => .refused .noReadOutstanding
  | some h => .next (cancelHeld h (s.run.held.eraseIdx k) s)

/-- The host's completion of SWD_READ (R143). -/
def hostCompletes (s : State) : Result :=
  if s.run.served = some .host ∧ s.cli.done = true then .next (takeCompletion s) else .refused .taskBlocked

/-! ### Symbols as instructions of the sequencer (00_scope.md R3) -/

/-- A symbol is fetched when a sample that decodes to it is signalled in a waiting phase; it runs as SWD_CONSUME does. -/
def runSymbol (sym : Symbol) (s : State) : Result :=
  if (Waiting s ∧ s.swd.sig = true) ∧ currentSymbol s = sym then
    .next (symbolEffect sym { s with swd.sig := false })
  else .refused .symbolNotPresent

/-- INVALID (R84, R136): `swd_fail(DECODE_ERROR)`. -/
def execSymInvalid (s : State) : Result := runSymbol .invalid s

/-- START (R84, R136). -/
def execSymStart (s : State) : Result := runSymbol .start s

/-- BIT0 (R84, R136). -/
def execSymBit0 (s : State) : Result := runSymbol .bit0 s

/-- BIT1 (R84, R136). -/
def execSymBit1 (s : State) : Result := runSymbol .bit1 s

/-- TIMEOUT (R84, R136): `swd_fail(TIMEOUT)`. -/
def execSymTimeout (s : State) : Result := runSymbol .timeout s

/-! ### The exchange as a function of its samples (R144) -/

/-- The outcome of `swd_run(L)`. -/
inductive Exchange where
  | pending
  | error (e : Byte)
  | reading (temperature humidity : Half)
  deriving DecidableEq, Repr

/-- The bits from number `k` on (R144's loop). -/
def exchangeBits (c : Config) : List Word → Nat → Packet → Exchange
  | [], _, _ => .pending
  | w :: ws, k, buf =>
    match classifyBit c w with
    | .timeout => .error statusTimeout
    | .invalid => .error statusDecodeError
    | .start => .error statusDecodeError
    | .bit0 =>
      let buf' := storeBit buf k false
      if k + 1 = c.nBits then
        if checksumOk buf' then .reading (temperatureOf buf') (humidityOf buf') else .error statusChecksumError
      else exchangeBits c ws (k + 1) buf'
    | .bit1 =>
      let buf' := storeBit buf k true
      if k + 1 = c.nBits then
        if checksumOk buf' then .reading (temperatureOf buf') (humidityOf buf') else .error statusChecksumError
      else exchangeBits c ws (k + 1) buf'

/-- `swd_run(L)` (R144): a capture timeout appears in `L` as the word 0. -/
def exchange (c : Config) : List Word → Exchange
  | [] => .pending
  | w :: ws =>
    match classifyStart c w with
    | .timeout => .error statusTimeout
    | .start => exchangeBits c ws 0 Packet.zero
    | .invalid => .error statusDecodeError
    | .bit0 => .error statusDecodeError
    | .bit1 => .error statusDecodeError

end Sys2Proof.Machine
end

