-- ==== Sys2Proof/Machine/LoopCtl.lean ====
section
/-!
DEFINITION. The control-loop orchestrator (44_control_loop.md R210 to R214). LOOP_TICK is a sequence of operations
between which other steps may occur (R211, 20_memory.md R66), so the LOOP task's position in it is state (log 10).
-/
namespace Sys2Proof.Machine

/-- The lock is acquired (20_memory.md R74). -/
def lockAcquired (s : State) : State :=
  { s with cfgLock := true, run.stage := .snapshot, run.tLock := 0 }

/-- The bound of the lock wait passes: "skip updating this cycle" (R212). -/
def skipConfig (s : State) : State := { s with run.stage := .read, run.tLock := 0 }

/-- LOOP_TICK (R211): issued by the LOOP task, it begins with the acquisition of the configuration lock, which succeeds
at once when the lock is free and else waits up to T_LOCK ticks (20_memory.md R74: "until `cfg.lock = 0` or `T_LOCK`
ticks have passed"); with `T_LOCK = 0`, which 00_scope.md R6 does not exclude, it fails at once (DEDUCED, log 29). -/
def execLoopTick (s : State) : Result :=
  if s.run.stage ≠ .idle then .refused .loopTickOverlap
  else if s.cfgLock = false then .next (lockAcquired s)
  else if s.conf.tLock = 0 then .next (skipConfig s)
  else .next { s with run.stage := .acquire, run.tLock := s.conf.tLock, run.freshLock := true }

/-- The reading that feeds the PID (R211, R214). -/
def loopTenths (s : State) : Int :=
  match s.conf.loopInputSel with
  | .temperature => s.loop.lastTemperature.toInt
  | .humidity => s.loop.lastHumidity.toInt

/-- `input <- wrap_32(tdiv(tenths << FX_FRAC, 10))` (R211). -/
def loopInput (s : State) : Word := wrap32 (tdiv (shl (loopTenths s) s.conf.fxFrac) 10)

/-- `setpoint` (R211); `ext.isDay` as it is at the LOOP task's PID_COMPUTE (DESIGN CHOICE, log 27). -/
def loopSetpoint (s : State) : Word := if s.ext.isDay then s.loop.cfg.spDay else s.loop.cfg.spNight

/-- `value = cmd.r0 >>a FX_FRAC`, the level an output commands (R211). -/
def loopLevel (f : Nat) (out : Word) : Word := wrap32 (asr out.toInt f)

/-- Step 2's bookkeeping (R211, R213). -/
def recordReading (status : Byte) (s : State) : State :=
  if status = statusOk then
    { s with
      loop.lastTemperature := s.swd.temperature, loop.lastHumidity := s.swd.humidity
      loop.haveReading := true }
  else { s with loop.errCount := s.loop.errCount + 1 }

/-- Step 3's first half: PID_COMPUTE in PID mode once a reading exists (R211, R214). `ext.now` and `ext.isDay`
are sampled here (DESIGN CHOICE, log 27). -/
def loopCompute (status : Byte) (s : State) : Result :=
  if s.loop.cfg.manual = false ∧ s.loop.haveReading = true then
    match pidStep (loopInput s) (loopSetpoint s) s.ext.now s with
    | .next t => .next { t with run.stage := .set status t.cmd.r0 }
    | .fault r => .fault r
    | .refused r => .refused r
  else .next { s with run.stage := .finish status }

/-- One operation of the LOOP task (R211). Its calls pass their operands themselves: `cmd.a0..a2` are not touched (log
10). -/
def loopStep (s : State) : Result :=
  match s.run.stage with
  | .idle => .refused .taskBlocked
  | .acquire => if s.cfgLock = false then .next (lockAcquired s) else .refused .taskBlocked
  | .snapshot => .next { s with loop.cfg := s.ext.cfg, run.stage := .release }
  | .release => .next { s with cfgLock := false, run.stage := .coef }
  | .coef =>
    let t := setCoef s.loop.cfg.kp s.loop.cfg.ki s.loop.cfg.kd s
    .next { t with run.stage := .limits }
  | .limits =>
    let t := setLimits s.loop.cfg.low s.loop.cfg.high s
    .next { t with run.stage := .read }
  | .read => submitRead .loop s.conf.tRcv false { s with run.stage := .waiting }
  | .waiting =>
    if s.run.served = some .loop ∧ s.cli.done = true then
      let t := takeCompletion s
      .next { t with run.stage := .record s.cli.err }
    else .refused .taskBlocked
  | .record status =>
    let t := recordReading status s
    .next { t with run.stage := .compute status }
  | .compute status => loopCompute status s
  | .set status out =>
    andThen (fun t => { t with run.stage := .finish status }) (setLevel (loopLevel s.conf.fxFrac out) s)
  | .finish status => .next { s with cmd.status := status, run.stage := .idle }

/-- Level S: T_LOCK ticks have passed and the lock is still held (20_memory.md R74; a free lock is acquired). -/
def lockExpires (s : State) : Result :=
  if s.run.stage = .acquire ∧ s.cfgLock = true then .next (skipConfig s) else .refused .taskBlocked

end Sys2Proof.Machine
end

