-- ==== Sys2Proof/Machine/Tick.lean ====
section
/-!
DEFINITION. Level T: one tick of 1 us (41_sensor_decoder.md R147 to R151; 42_phase_actuator.md R175, R176). Order of
work within a tick: R151; ties: 60_exceptions.md R234 and the spec's decision D40; what neither fixes: log 9.
-/
namespace Sys2Proof.Machine

/-- The edge of a level from the previous tick to this one. -/
def falls (prev now : Bool) : Bool := prev && !now
def rises (prev now : Bool) : Bool := !prev && now

/-- The capture counter and its edges (R148), before the timeout test; `n` is the counter after this tick's increment. -/
def captureEdge (line : Bool) (n : Half) (s : State) : State :=
  if falls s.cap.prev line then
    if s.cap.first then { s with cap.first := false, cap.cnt := 0 }
    else storeSample (packSample n s.cap.lowLatch) { s with cap.cnt := 0 }
  else if rises s.cap.prev line then { s with cap.cnt := n, cap.lowLatch := n }
  else { s with cap.cnt := n }

/-- The auto-reload timeout (R148): an edge on the same tick has reset the counter and wins. -/
def captureTimeout (s : State) : State :=
  if s.cap.cnt = s.conf.tCapto then storeSample (packSample 0 0) { s with cap.cnt := 0 } else s

/-- The capture unit on one tick (R148), active while `swd.irq_en = 1`. -/
def captureUnit (line : Bool) (s : State) : State :=
  let t := if s.swd.irqEn then captureTimeout (captureEdge line (s.cap.cnt + 1) s) else s
  { t with cap.prev := line }

/-- Counter A on one tick while `pca.irq_en = 1` (R175); `n` is the counter after this tick's increment. -/
def counterAEdge (zc : Bool) (n : Half) (s : State) : State :=
  if rises s.pca.aPrev zc then
    if s.pca.aFirst then { s with pca.aFirst := false, pca.aCnt := 0 }
    else
      let t := zeroCrossing n s.pca.aHigh s
      { t with pca.aCnt := 0 }
  else if falls s.pca.aPrev zc then { s with pca.aHigh := n, pca.aCnt := n }
  else { s with pca.aCnt := n }

def counterA (zc : Bool) (s : State) : State :=
  let t := if s.pca.irqEn then counterAEdge zc (s.pca.aCnt + 1) s else s
  { t with pca.aPrev := zc }

/-- Whether Counter A fires PCA_IRQ_ZC on this tick (R175). -/
def crosses (zc : Bool) (s : State) : Bool := s.pca.irqEn && !s.pca.aFirst && rises s.pca.aPrev zc

/-- Step (3) of the tick before, where it matters: a completion of PCA_READ that is due runs before the next zero
crossing (R151 (3); log 30). -/
def hostTurn (zc : Bool) (s : State) : State := if crosses zc s then readDue s else s

/-- One count of a down-counting timer; 0 is stopped (10_state.md R28); a timer loaded by a command on this tick first
counts on the next (log 8). -/
def countDown {n : Nat} (fresh : Bool) (t : BitVec n) : BitVec n := if fresh || t == 0 then t else t - 1

/-- Whether this tick's count brings the timer to 0. -/
def expiresNow {n : Nat} (fresh : Bool) (t : BitVec n) : Bool := !fresh && t == 1

/-- One count of the lock wait. -/
def countLock (fresh : Bool) (n : Nat) : Nat := if fresh then n else n - 1

/-- Whether this tick's count ends the lock wait. A wait is entered only with a count above 0 (`execLoopTick`; log 29). -/
def lockExpiresNow (fresh : Bool) (n : Nat) : Bool := !fresh && n == 1

def Held.count (h : Held) : Held := { h with left := countDown h.fresh h.left, fresh := false }

/-- Every running timer counts once (R147). -/
def countTimers (s : State) : State :=
  { s with
    swd.tStart := countDown s.run.freshStart s.swd.tStart
    swd.tWait := countDown false s.swd.tWait
    swd.tRcv := countDown s.run.freshRcv s.swd.tRcv
    pca.tRead := countDown s.run.freshRead s.pca.tRead
    run.tLock := countLock s.run.freshLock s.run.tLock
    run.held := s.run.held.map Held.count
    run.freshStart := false, run.freshRcv := false, run.freshRead := false, run.freshLock := false }

/-- SWD_START_DONE on the tick its timer expires. -/
def startTimer (due : Bool) (s : State) : State :=
  if due = true ∧ s.swd.phase = .startPulse then startDone s else s

/-- SWD_WAIT_EXPIRE on the tick its timer expires, unless a signal is present (R137, R234). -/
def waitTimer (due : Bool) (s : State) : State :=
  if due = true ∧ Waiting s ∧ s.swd.sig = false then swdFinish statusIrqTimeout s else s

/-- Counter C on one tick, unless B's expiry retriggered it on this tick (R176). -/
def countC (s : State) : State :=
  if s.pca.cRun then
    if s.pca.cCnt = s.pca.cReload then cReload s else { s with pca.cCnt := s.pca.cCnt + 1 }
  else s

/-- Counters B and C on one tick (R176). A load by the handler of this tick is seen on it (DEDUCED, log 24). -/
def countersBC (s : State) : State :=
  if s.pca.bRun then
    if s.pca.bCnt = s.pca.bLoad then bExpire s else countC { s with pca.bCnt := s.pca.bCnt + 1 }
  else countC s

/-- PCA_READ_EXPIRE on the tick its window ends, unless a crossing is present (R172, R234). -/
def readTimer (due : Bool) (s : State) : State :=
  if due = true ∧ s.run.pcaReadBlocked = true ∧ s.pca.sig = false then readExpires s else s

/-- The lock wait on the tick its bound passes: a free lock is acquired, a held one skipped (20_memory.md R70, R74). -/
def lockTimer (due : Bool) (s : State) : State :=
  if due = true ∧ s.run.stage = .acquire then
    if s.cfgLock then skipConfig s else lockAcquired s
  else s

/-- The held commands whose own deadline passes on this tick (R134, R141): `ended`; the others stay held. -/
def heldTimers (s : State) : State :=
  let ended := s.run.held.filter (fun h => h.left == 0)
  let rest := s.run.held.filter (fun h => h.left != 0)
  ended.foldl (fun t h => cancelHeld h rest t) s

/-- Step (3) of a tick: the sequencer takes a sample on this very tick if it is scheduled to (R151). -/
def sequencerTurn (consume : Bool) (s : State) : State :=
  if consume = true ∧ Waiting s ∧ s.swd.sig = true then consumeSample s else s

/-- The end of a tick: the deadline of the served command, a step (2) event, before the sequencer's turn, step (3) (R151).
Only a completion on this very tick beats it (R141, D40: "the completion wins"); a turn that would not complete the
exchange does not take place. -/
def deadlineTimer (due consume : Bool) (s : State) : State :=
  let t := sequencerTurn consume s
  if due = true ∧ s.swd.busy = true ∧ t.cli.done = false then cancelServed s else t

/-- One tick (R151): (1) the capture unit and Counter A look at the pins; (2) the timers and Counters B and C count and
run what they enable; (3) the sequencer. -/
def tick (sensorLow zc consume : Bool) (s : State) : State :=
  let r := hostTurn zc s
  let a := counterA zc (captureUnit (linePin sensorLow r) r)
  let b := startTimer (expiresNow a.run.freshStart a.swd.tStart) (countTimers a)
  let c := countersBC (waitTimer (expiresNow false a.swd.tWait) b)
  let d := readTimer (expiresNow a.run.freshRead a.pca.tRead) c
  let e := heldTimers (lockTimer (lockExpiresNow a.run.freshLock a.run.tLock) d)
  deadlineTimer (expiresNow a.run.freshRcv a.swd.tRcv) consume e

end Sys2Proof.Machine
end

