-- ==== Sys2Proof/Machine/Dispatch.lean ====
section
/-!
DEFINITION. One arm per constructor of Instr: the instruction's meaning.
-/
namespace Sys2Proof.Machine

def exec (i : Instr) (s : State) : Host.Outcome State Fault Refusal :=
  match i with
  -- 40_fixed_point.md
  | .fxAdd => Sys2Proof.Machine.execFxAdd s
  | .fxSub => Sys2Proof.Machine.execFxSub s
  | .fxMul => Sys2Proof.Machine.execFxMul s
  | .fxDiv => Sys2Proof.Machine.execFxDiv s
  | .fxFromInt => Sys2Proof.Machine.execFxFromInt s
  | .fxToInt => Sys2Proof.Machine.execFxToInt s
  | .fxClamp => Sys2Proof.Machine.execFxClamp s
  | .fxParse => Sys2Proof.Machine.execFxParse s
  | .fxFormat => Sys2Proof.Machine.execFxFormat s
  -- 41_sensor_decoder.md, the command
  | .swdRead => Sys2Proof.Machine.execSwdRead s
  -- 42_phase_actuator.md, the commands
  | .pcaSet => Sys2Proof.Machine.execPcaSet s
  | .pcaRead => Sys2Proof.Machine.execPcaRead s
  | .pcaInit => Sys2Proof.Machine.execPcaInit s
  -- 43_pid.md
  | .pidCompute => Sys2Proof.Machine.execPidCompute s
  | .pidSetCoef => Sys2Proof.Machine.execPidSetCoef s
  | .pidSetLimits => Sys2Proof.Machine.execPidSetLimits s
  -- 44_control_loop.md
  | .loopTick => Sys2Proof.Machine.execLoopTick s
  -- 41_sensor_decoder.md, the events
  | .swdIrqCapture period low => Sys2Proof.Machine.execSwdIrqCapture period low s
  | .swdIrqCapto => Sys2Proof.Machine.execSwdIrqCapto s
  | .swdStartDone => Sys2Proof.Machine.execSwdStartDone s
  | .swdConsume => Sys2Proof.Machine.execSwdConsume s
  | .swdWaitExpire => Sys2Proof.Machine.execSwdWaitExpire s
  | .swdDeadline => Sys2Proof.Machine.execSwdDeadline s
  -- 42_phase_actuator.md, the events
  | .pcaIrqZc period offset => Sys2Proof.Machine.execPcaIrqZc period offset s
  | .pcaBExpire => Sys2Proof.Machine.execPcaBExpire s
  | .pcaCReload => Sys2Proof.Machine.execPcaCReload s
  | .pcaReadExpire => Sys2Proof.Machine.execPcaReadExpire s
  -- 30_encoding.md R84, the symbols
  | .symInvalid => Sys2Proof.Machine.execSymInvalid s
  | .symStart => Sys2Proof.Machine.execSymStart s
  | .symBit0 => Sys2Proof.Machine.execSymBit0 s
  | .symBit1 => Sys2Proof.Machine.execSymBit1 s
  | .symTimeout => Sys2Proof.Machine.execSymTimeout s

end Sys2Proof.Machine
end

