-- ==== Sys2Proof/Machine/Inputs.lean ====
section
/-!
DEFINITION. What one input does: a command issue, an event, a tick, a task step, a write of the outside
(10_state.md R21; 20_memory.md R66, R74; 30_encoding.md R95, R96, R98; 44_control_loop.md R210). And how a table word
is placed where the machine fetches (log 1, log 17).
-/
namespace Sys2Proof.Machine

/-- Writing `cmd.op` issues the operation (10_state.md R21); a code that is no command changes nothing but
`cmd.status <- 0xFF` (30_encoding.md R98). -/
def issueCommand (op : Byte) (s : State) : Result :=
  let s1 := { s with cmd.op := op }
  match decode (.command op) with
  | .ok i => exec i s1
  | .error _ => .next (putStatus statusBadOp s1)

/-- What has run before an event: the completion of a PCA_READ that the previous zero crossing has ended (log 30). -/
def beforeEvent (i : Instr) (s : State) : State :=
  match i with
  | .pcaIrqZc _ _ => readDue s
  | .fxAdd | .fxSub | .fxMul | .fxDiv | .fxFromInt | .fxToInt | .fxClamp | .fxParse | .fxFormat => s
  | .swdRead | .pcaSet | .pcaRead | .pcaInit | .pidCompute | .pidSetCoef | .pidSetLimits | .loopTick => s
  | .swdIrqCapture _ _ | .swdIrqCapto | .swdStartDone | .swdConsume | .swdWaitExpire | .swdDeadline => s
  | .pcaBExpire | .pcaCReload | .pcaReadExpire => s
  | .symInvalid | .symStart | .symBit0 | .symBit1 | .symTimeout => s

/-- A Level S event (30_encoding.md R96). -/
def raiseEvent (code : Byte) (payload : Word) (s : State) : Result :=
  match decode (.event code payload) with
  | .ok i => exec i (beforeEvent i s)
  | .error .strayPayload => .refused .strayPayload
  | .error _ => .refused .unknownEvent

/-- A collaborator acquires the lock, which blocks it while the lock is held (20_memory.md R74; DESIGN CHOICE,
log 21). -/
def lockTaken (s : State) : Result :=
  if s.cfgLock = false then .next { s with cfgLock := true } else .refused .taskBlocked

/-- One input. -/
def runInput (x : Input) (s : State) : Result :=
  match x with
  | .writeA0 v => .next { s with cmd.a0 := v }
  | .writeA1 v => .next { s with cmd.a1 := v }
  | .writeA2 v => .next { s with cmd.a2 := v }
  | .writeStr cs => .next { s with cmd.str := cs }
  | .issue op => issueCommand op s
  | .event code payload => raiseEvent code payload s
  | .tick sensorLow zc consume => .next (tick sensorLow zc consume s)
  | .swdReturn => hostCompletes s
  | .pcaReturn => pcaCompletes s
  | .loopStep => loopStep s
  | .lockExpire => lockExpires s
  | .heldExpire k => heldDeadline k s
  | .lockTake => lockTaken s
  | .lockGive => .next { s with cfgLock := false }
  | .extCfg c => .next { s with ext.cfg := c }
  | .extIsDay b => .next { s with ext.isDay := b }
  | .extNow v => .next { s with ext.now := v }

/-! ### Placing a table word (log 1) -/

/-- The SWD unit waiting for a sample, as it is where an SWD interrupt is enabled (60_exceptions.md R232). -/
def armWaiting (p : Phase) (s : State) : State :=
  if Waiting s ∧ s.swd.irqEn = true then s
  else
    { s with
      swd.phase := p, swd.irqEn := true, swd.lineDrive := false, swd.busy := true
      swd.bit := 0, swd.buf := Packet.zero
      cli.done := false
      run.served := some .host }

/-- The state in which an event can be raised at all: its enabling condition, and nothing where it already holds. A
command is issued by the host and needs none. -/
def armFor (i : Instr) (s : State) : State :=
  match i with
  | .swdIrqCapture _ _ | .swdIrqCapto => if s.swd.irqEn = true then s else armWaiting .waitStart s
  | .swdStartDone =>
    if s.swd.phase = .startPulse then s
    else
      { s with
        swd.phase := .startPulse, swd.lineDrive := true, swd.irqEn := false, swd.busy := true
        swd.bit := 0, swd.buf := Packet.zero
        cli.done := false
        run.served := some .host }
  | .swdConsume =>
    let t := armWaiting .waitStart s
    { t with swd.sig := true }
  | .swdWaitExpire =>
    let t := armWaiting .waitStart s
    { t with swd.sig := false }
  | .swdDeadline => if s.swd.busy = true ∧ s.cli.done = false then s else armWaiting .waitStart s
  | .pcaIrqZc _ _ => { s with pca.irqEn := true }
  | .pcaBExpire => { s with pca.bRun := true }
  | .pcaCReload => { s with pca.cRun := true }
  | .pcaReadExpire => { s with run.pcaReadBlocked := true, pca.sig := false }
  | .fxAdd | .fxSub | .fxMul | .fxDiv | .fxFromInt | .fxToInt | .fxClamp | .fxParse | .fxFormat => s
  | .swdRead | .pcaSet | .pcaRead | .pcaInit | .pidCompute | .pidSetCoef | .pidSetLimits | .loopTick => s
  | .symInvalid | .symStart | .symBit0 | .symBit1 | .symTimeout => s

/-- A Capture Sample that decodes to the symbol, and the phase in which it does (30_encoding.md R84): the nominal
timings, the capture timeout's report, and a sample with `low = 0`, which no window holds. -/
def sampleFor (c : Config) (sym : Symbol) : Phase × Word :=
  let at2 (low high : Nat) : Word := packSample (BitVec.ofNat 16 (low + high)) (BitVec.ofNat 16 low)
  match sym with
  | .invalid => (.waitBit, packSample 1 0)
  | .start => (.waitStart, at2 c.vStartLow c.vStartHigh)
  | .bit0 => (.waitBit, at2 c.vBitLow c.vZeroHigh)
  | .bit1 => (.waitBit, at2 c.vBitLow c.vOneHigh)
  | .timeout => (.waitStart, packSample 0 0)

/-- The symbol a symbol instruction stands for. -/
def symbolOf : Instr → Option Symbol
  | .symInvalid => some .invalid
  | .symStart => some .start
  | .symBit0 => some .bit0
  | .symBit1 => some .bit1
  | .symTimeout => some .timeout
  | .fxAdd | .fxSub | .fxMul | .fxDiv | .fxFromInt | .fxToInt | .fxClamp | .fxParse | .fxFormat => none
  | .swdRead | .pcaSet | .pcaRead | .pcaInit | .pidCompute | .pidSetCoef | .pidSetLimits | .loopTick => none
  | .swdIrqCapture _ _ | .swdIrqCapto | .swdStartDone | .swdConsume | .swdWaitExpire | .swdDeadline => none
  | .pcaIrqZc _ _ | .pcaBExpire | .pcaCReload | .pcaReadExpire => none

/-- A symbol is fetched from the capture register by SWD_CONSUME (00_scope.md R3): the sample, the signal, the phase. -/
def placeSymbol (sym : Symbol) (s : State) : State :=
  let p := sampleFor s.conf sym
  { s with
    swd.phase := p.1, swd.irqEn := true, swd.lineDrive := false, swd.busy := true
    swd.bit := 0, swd.buf := Packet.zero
    swd.sample := p.2, swd.sig := true
    cli.done := false
    run.served := some .host
    trace := .event 0x83 0 :: s.trace }

/-- A code word placed as the next thing the machine runs. -/
def placeWord (w : CodeWord) (s : State) : State :=
  match w with
  | .command op => { s with trace := .issue op :: s.trace }
  | .event code payload =>
    let t :=
      match decode (.event code payload) with
      | .ok i => armFor i s
      | .error _ => s
    { t with trace := .event code payload :: s.trace }
  | .symbol code =>
    match decode (.symbol code) with
    | .ok i =>
      match symbolOf i with
      | some sym => placeSymbol sym s
      | none => s
    | .error _ => s

/-- The input at the head of the trace, its step, and a held read accepted where one now can be. -/
def stepInput (x : Input) (rest : List Input) (s : State) : Result :=
  andThen settle (runInput x { s with trace := rest })

end Sys2Proof.Machine
end

