-- ==== Sys2Proof/Machine/Step.lean ====
section
/-!
DEFINITION. One step: the next input of the trace, then the acceptance of a held SWD_READ where the slot is free.
-/
namespace Sys2Proof.Machine

/-- With no input the machine stays as it is (70_reset_and_hazards.md R260: "The first thing that runs is whatever the
host issues"). -/
def step (s : State) : Host.Outcome State Fault Refusal :=
  match s.trace with
  | [] => .next s
  | x :: rest => stepInput x rest s

/-- `s` with a word of spec/opcode_table.json as the very next thing that runs (log 1, log 17). -/
def State.withFetchWord (s : State) (nbits w : Nat) : State := placeWord (tableWord nbits w) s

end Sys2Proof.Machine
end

