-- ==== Sys2Proof/Safety.lean ====
section
/-!
DEFINITION. The terms claims are stated in: the invariants of the three units that the rules keep, the decimal grammar,
a well-formed configuration, and the sample-by-sample run of an exchange.
-/
namespace Sys2Proof.Machine

/-- The values of 00_scope.md R6 at which the rules are written (log 28). -/
def widthsOk (c : Config) : Bool :=
  decide (c.fxW = 32 ∧ c.capW = 16 ∧ c.pcaCntW = 16 ∧ c.nBits = 40 ∧ c.nBytes = 5 ∧ c.tick = 1)

/-- The parameters a configuration must meet: the bounds of 00_scope.md R6, the constraints of 42_phase_actuator.md R163,
and the relation of 44_control_loop.md R215. That a duration R6 gives a value is not 0 is DEDUCED from its meaning
(log 3); that `1 <= FX_FRAC <= 31` is a DESIGN CHOICE (log 3): the spec gives 16 and no bounds; T_LOCK may be 0 (log 29). -/
def confOk (c : Config) : Bool :=
  widthsOk c && phaseTableOk c && decide (1 ≤ c.fxFrac ∧ c.fxFrac ≤ 31)
    && c.tStart != 0 && c.tCapto != 0 && c.tWait != 0 && decide (0 < c.tRcv.toInt) && c.pcaPulseW != 0 && c.tPcaRead != 0
    && decide (c.tLock + c.tRcv.toNat < c.tPoll)
    && decide (0 < c.vStartLow ∧ 0 < c.vStartHigh ∧ 0 < c.vBitLow ∧ 0 < c.vZeroHigh ∧ 0 < c.vOneHigh)

/-- Bits number `k` to 39 of the packet are 0 (41_sensor_decoder.md R145 (5)). -/
def ClearFrom (buf : Packet) (k : Nat) : Prop := ∀ i, k ≤ i → i < 40 → packetBit buf i = false

/-- The decoder's invariants: 41_sensor_decoder.md R145 (1) to (5), who is served, and which timers may run. -/
structure SwdInv (s : State) : Prop where
  /-- a packet has a bit -/
  bits_pos : 0 < s.conf.nBits
  /-- R145 (1) -/
  busy_iff : s.swd.busy = true ↔ s.swd.phase ≠ .idle
  /-- R145 (2) -/
  irq_iff : s.swd.irqEn = true ↔ Waiting s
  /-- R145 (3) -/
  drive_iff : s.swd.lineDrive = true ↔ s.swd.phase = .startPulse
  /-- R145 (4) -/
  bit_le : s.swd.bit ≤ s.conf.nBits
  bit_lt : s.swd.phase = .waitBit → s.swd.bit < s.conf.nBits
  /-- R145 (5) -/
  buf_clear : s.swd.phase = .waitBit → ClearFrom s.swd.buf s.swd.bit
  buf_zero : s.swd.phase = .startPulse ∨ s.swd.phase = .waitStart → s.swd.buf = Packet.zero
  /-- a completion not yet taken means a free slot (R140, R143) -/
  done_free : s.cli.done = true → s.swd.busy = false
  /-- somebody is blocked exactly while the slot is busy or a completion is not yet taken -/
  served_iff : s.run.served.isSome = true ↔ s.swd.busy = true ∨ s.cli.done = true
  start_timer : s.swd.tStart ≠ 0 → s.swd.phase = .startPulse
  wait_timer : s.swd.tWait ≠ 0 → Waiting s
  rcv_timer : s.swd.tRcv ≠ 0 → s.swd.busy = true

/-- The actuator's invariants (10_state.md R30, R36; 42_phase_actuator.md R162, R163, R165, R171;
70_reset_and_hazards.md R265). -/
structure PcaInv (s : State) : Prop where
  table_eq : s.pca.irqEn = true → s.pca.table = s.conf.pcaTable
  table_ok : s.pca.irqEn = true → phaseTableOk s.conf = true
  entry_le : s.pca.phaseEntry.toNat ≤ 2 ^ s.conf.pcaShift
  width_eq : s.pca.width = 0 ∨ s.pca.width = s.conf.pcaPulseW
  bypass_width : s.pca.bypass = true → s.pca.width = 0
  before_init : s.pca.irqEn = false →
    s.pca.width = 0 ∧ s.pca.bypass = false ∧ s.pca.bRun = false ∧ s.pca.cRun = false
  read_timer : s.pca.tRead ≠ 0 → s.run.pcaReadBlocked = true

/-- How many SWD_READ commands of the LOOP task are outstanding. -/
def loopReads (s : State) : Nat :=
  (if s.run.served = some .loop then 1 else 0) + s.run.held.countP (fun h => h.caller == .loop)

/-- The LOOP task's invariants: it has exactly one SWD_READ outstanding while it is blocked in one, else none
(44_control_loop.md R211), and the lock timer runs only while it waits for the lock (20_memory.md R74). -/
structure LoopInv (s : State) : Prop where
  reads_eq : loopReads s = if s.run.stage = .waiting then 1 else 0
  lock_timer : s.run.tLock ≠ 0 → s.run.stage = .acquire

/-- The lock wait is bounded: its timer runs while the LOOP task waits (20_memory.md R74; 60_exceptions.md R242: "No
blocking operation of the core can block for ever"). -/
def LockWaitBounded (s : State) : Prop := s.run.stage = .acquire → s.run.tLock ≠ 0

/-- `cs` is a string of the grammar of 40_fixed_point.md R118, with its sign, its integer digits and its fraction
digits: "an optional sign `+` or `-`, one or more decimal digits, optionally a `.` followed by zero or more decimal
digits". -/
def DecimalString (neg : Bool) (ip fp : List Nat) (cs : List Char) : Prop :=
  ip ≠ [] ∧ (∀ d ∈ ip, d < 10) ∧ (∀ d ∈ fp, d < 10) ∧
  ∃ sign frac : List Char,
    (if neg then sign = ['-'] else sign = [] ∨ sign = ['+']) ∧
    (frac = '.' :: fp.map digitChar ∨ (fp = [] ∧ frac = [])) ∧
    cs = sign ++ ip.map digitChar ++ frac

/-- `match(x, v)` (00_scope.md R11): within `v - floor(v/2)` and `v + floor(v/2)`, both inclusive. -/
def InTolerance (x : Int) (v : Nat) : Prop := (v : Int) - (v : Int) / 2 ≤ x ∧ x ≤ (v : Int) + (v : Int) / 2

/-- The state in which an exchange ends with code `e`, the signal taken (41_sensor_decoder.md R140). -/
def endedWith (e : Byte) (s : State) : State :=
  { s with
    swd.sig := false, swd.irqEn := false, swd.tWait := 0, swd.tStart := 0, swd.tRcv := 0
    swd.phase := .idle, cli.buf := s.swd.buf, cli.err := e, swd.busy := false, cli.done := true }

/-- One firing followed by its consumption (41_sensor_decoder.md R144): a word with `period = 0` stands for a capture
timeout. -/
def feed (w : Word) (s : State) : Result :=
  let i : Instr := if samplePeriod w = 0 then .swdIrqCapto else .swdIrqCapture (samplePeriod w) (sampleSecond w)
  match exec i s with
  | .next t => exec .swdConsume t
  | .fault r => .fault r
  | .refused r => .refused r

/-- A list of firings, each consumed before the next; once the interrupts are disabled no sample fires (R144). -/
def feedAll : List Word → State → State
  | [], s => s
  | w :: ws, s =>
    match feed w s with
    | .next t => feedAll ws t
    | .fault _ => s
    | .refused _ => s

/-- `n` ticks of an operation. -/
def repeatOp (f : State → State) : Nat → State → State
  | 0, s => s
  | n + 1, s => repeatOp f n (f s)

/-- Ticks with the given pin levels and sequencer schedule, one after the other. -/
def ticks : List (Bool × Bool × Bool) → State → State
  | [], s => s
  | p :: ps, s => ticks ps (tick p.1 p.2.1 p.2.2 s)

/-- The LOOP task's next `n` operations. -/
def loopSteps : Nat → State → Result
  | 0, s => .next s
  | n + 1, s =>
    match loopStep s with
    | .next t => loopSteps n t
    | .fault r => .fault r
    | .refused r => .refused r

/-- The inputs by which Dimmer Command State may be written (10_state.md R30: "Written only by `PCA_SET`"; PCA_INIT
sets its initial value): the two commands, and the LOOP task where its next operation is PCA_SET. -/
def CommandsActuator (x : Input) (s : State) : Prop :=
  x = .issue 0x20 ∨ x = .issue 0x22 ∨ (x = .loopStep ∧ ∃ st out, s.run.stage = .set st out)

/-- The inputs by which PID state may be written (10_state.md R38): the three commands, and the LOOP task where its next
operation is one of them. -/
def CommandsPid (x : Input) (s : State) : Prop :=
  x = .issue 0x30 ∨ x = .issue 0x31 ∨ x = .issue 0x32 ∨
  (x = .loopStep ∧ (s.run.stage = .coef ∨ s.run.stage = .limits ∨ ∃ st, s.run.stage = .compute st))

end Sys2Proof.Machine
end

