-- ==== Sys2Proof/Certificates/Slice0/Obligations.lean ====
section
/-!
DEFINITION. The statements for the provers. `D<n>` names a decision of 92_eei_decisions.md: the spec's own choice, which
its source does not fix. `log <n>` names an entry of notes/assumptions. Every statement is over every configuration.
-/

open Sys2Proof Sys2Proof.Machine

/-! ### Encoding -/

/-- Each instruction has exactly one code word, and a code word decodes to at most that instruction: no bit of a
payload is dropped, no two rows overlap, and everything else is rejected (30_encoding.md R84, R95, R96; the code numbers
are D37, that a bare event has payload word 0 is log 18). -/
def Obligations.EachInstructionHasOneCodeWord : Prop :=
  ∀ (w : CodeWord) (i : Instr), decode w = .ok i ↔ w = encode i

/-- Code words written out from the tables of 30_encoding.md R84, R95, R96 decode to the instructions they stand for
(D37). -/
def Obligations.TableCodesDecode : Prop :=
  decode (.command 0b00000011) = .ok .fxMul ∧ decode (.command 0b00010000) = .ok .swdRead ∧
  decode (.command 0b00100010) = .ok .pcaInit ∧ decode (.command 0b00110001) = .ok .pidSetCoef ∧
  decode (.command 0b01000000) = .ok .loopTick ∧
  decode (.event 0b10000000 0x00A00050) = .ok (.swdIrqCapture 160 80) ∧
  decode (.event 0b10010000 0x4E2027D8) = .ok (.pcaIrqZc 20000 10200) ∧
  decode (.event 0b10000011 0) = .ok .swdConsume ∧ decode (.symbol 0b011) = .ok .symBit1

/-- Issuing a `cmd.op` value that is no command code changes nothing except `cmd.status <- 0xFF` and `cmd.op` itself
(30_encoding.md R98, D37; that the written code stays in `cmd.op` is log 17). -/
def Obligations.UnknownOpSetsBadOp : Prop :=
  ∀ (s : State) (op : Byte), (∀ i, encode i ≠ .command op) →
    runInput (.issue op) s = .next { s with cmd.op := op, cmd.status := 0xFF }

/-! ### The step -/

/-- A step runs the decoded instruction: a command on the state with `cmd.op` written, an event on the state as it is;
around it the step only removes the input from the trace and accepts a held read where one now can be. Before a zero
crossing a completion of PCA_READ that is due runs first, at the latest (log 30: 20_memory.md R66, 42_phase_actuator.md
R171). That the outside is a list of inputs is log 1; when a held read can be accepted is log 6. -/
def Obligations.StepRunsDecodedInstruction : Prop :=
  (∀ (s : State) (op : Byte) (rest : List Input) (i : Instr),
    s.trace = .issue op :: rest → decode (.command op) = .ok i →
    step s = andThen settle (exec i { s with trace := rest, cmd.op := op })) ∧
  (∀ (s : State) (code : Byte) (payload : Word) (rest : List Input) (i : Instr),
    s.trace = .event code payload :: rest → decode (.event code payload) = .ok i →
    (s.run.pcaReadBlocked = true → s.pca.sig = true → ∀ p q, i ≠ .pcaIrqZc p q) →
    step s = andThen settle (exec i { s with trace := rest })) ∧
  (∀ (s t : State) (code : Byte) (payload : Word) (rest : List Input) (p q : Half),
    s.trace = .event code payload :: rest → decode (.event code payload) = .ok (.pcaIrqZc p q) →
    runInput .pcaReturn { s with trace := rest } = .next t →
    step s = andThen settle (exec (.pcaIrqZc p q) t))

/-- SWD_CONSUME runs exactly the symbol instruction that the captured sample decodes to (00_scope.md R3). -/
def Obligations.ConsumeRunsTheSymbol : Prop :=
  ∀ s : State, Waiting s → s.swd.sig = true →
    ∃ i, symbolOf i = some (currentSymbol s) ∧ exec .swdConsume s = exec i s

/-! ### Fixed-point arithmetic -/

/-- FX_ADD and FX_SUB wrap modulo 2^32 and write only `r0` and the status, OK (40_fixed_point.md R111, R112; wrapping is
D3; the status is log 25). -/
def Obligations.AddAndSubtractWrap : Prop :=
  ∀ s : State,
    exec .fxAdd s = .next { s with cmd.r0 := s.cmd.a0 + s.cmd.a1, cmd.status := 0 } ∧
    exec .fxSub s = .next { s with cmd.r0 := s.cmd.a0 - s.cmd.a1, cmd.status := 0 }

/-- FX_MUL: the exact product scaled down toward minus infinity, its low 32 bits in `r0`, status OK, nothing else changed
(40_fixed_point.md R113; rounding is D4, wrapping D3; the status is log 25). -/
def Obligations.MultiplyScalesTowardMinusInfinity : Prop :=
  ∀ s : State, ∃ (r : Word) (q : Int),
    exec .fxMul s = .next { s with cmd.r0 := r, cmd.status := 0 } ∧
    q * 2 ^ s.conf.fxFrac ≤ s.cmd.a0.toInt * s.cmd.a1.toInt ∧
    s.cmd.a0.toInt * s.cmd.a1.toInt < (q + 1) * 2 ^ s.conf.fxFrac ∧
    (2 ^ 32 : Int) ∣ r.toInt - q ∧ (fits32 q = true → r.toInt = q)

/-- FX_DIV: with a nonzero divisor the quotient toward zero of the dividend scaled up first, and status 0; with a zero
divisor status 7 and `r0` unchanged; nothing else changed (40_fixed_point.md R114; D3, D5). -/
def Obligations.DivideRoundsTowardZero : Prop :=
  ∀ s : State,
    (s.cmd.a1 ≠ 0 → ∃ (r : Word) (q rem : Int),
      exec .fxDiv s = .next { s with cmd.r0 := r, cmd.status := 0 } ∧
      s.cmd.a0.toInt * 2 ^ s.conf.fxFrac = q * s.cmd.a1.toInt + rem ∧
      |rem| < |s.cmd.a1.toInt| ∧ 0 ≤ rem * s.cmd.a0.toInt ∧
      (2 ^ 32 : Int) ∣ r.toInt - q ∧ (fits32 q = true → r.toInt = q)) ∧
    (s.cmd.a1 = 0 → exec .fxDiv s = .next { s with cmd.status := 7 })

/-- FX_FROM_INT and FX_TO_INT: scaling up by 2^FX_FRAC modulo 2^32, and the floor of the value, which always fits;
nothing else but the status, OK (40_fixed_point.md R115, R116; D3, D4; the status is log 25). -/
def Obligations.IntegerConversions : Prop :=
  ∀ s : State,
    (∃ r : Word, exec .fxFromInt s = .next { s with cmd.r0 := r, cmd.status := 0 } ∧
      (2 ^ 32 : Int) ∣ r.toInt - s.cmd.a0.toInt * 2 ^ s.conf.fxFrac) ∧
    (∃ r : Word, exec .fxToInt s = .next { s with cmd.r0 := r, cmd.status := 0 } ∧
      r.toInt * 2 ^ s.conf.fxFrac ≤ s.cmd.a0.toInt ∧ s.cmd.a0.toInt < (r.toInt + 1) * 2 ^ s.conf.fxFrac)

/-- FX_CLAMP, code 0x07, compares as signed integers, does not reorder its bounds and writes only `r0` and the status, OK
(40_fixed_point.md R117; the status is log 25). -/
def Obligations.ClampIsSignedAndNotReordered : Prop :=
  decode (.command 0x07) = .ok .fxClamp ∧
  ∀ s : State, exec .fxClamp s = .next { s with
    cmd.r0 := if s.cmd.a0.slt s.cmd.a1 then s.cmd.a1 else if s.cmd.a2.slt s.cmd.a0 then s.cmd.a2 else s.cmd.a0
    cmd.status := 0 }

/-- FX_PARSE: every string of the grammar gives its value truncated in magnitude and status 0; every string outside it
gives status 8 and leaves `r0` (40_fixed_point.md R118, D3, D6; D6's shorter grammar is not followed, log 19). -/
def Obligations.ParseFollowsTheGrammar : Prop :=
  ∀ s : State,
    (∀ neg ip fp, DecimalString neg ip fp s.cmd.str → ∃ mag : Nat,
      mag = digitsValue ip * 2 ^ s.conf.fxFrac + digitsValue fp * 2 ^ s.conf.fxFrac / 10 ^ fp.length ∧
      exec .fxParse s = .next { s with
        cmd.r0 := BitVec.ofInt 32 (if neg then -(mag : Int) else (mag : Int)), cmd.status := 0 }) ∧
    ((∀ neg ip fp, ¬ DecimalString neg ip fp s.cmd.str) →
      exec .fxParse s = .next { s with cmd.status := 8 })

/-- FX_FORMAT prints a decimal string with exactly FX_FMT_DIGITS fraction digits and no superfluous leading zero, whose
value is the operand's magnitude rounded half up, with a minus sign exactly when the operand is negative and the printed
value is not 0; it writes no register but the status, OK (40_fixed_point.md R119, D6; the status is log 25). -/
def Obligations.FormatRoundsHalfUp : Prop :=
  ∀ s : State, 1 ≤ s.conf.fxFrac → ∃ (cs sign : List Char) (ip fp : List Nat) (scaled : Nat),
    exec .fxFormat s = .next { s with cmd.strOut := cs, cmd.status := 0 } ∧
    cs = sign ++ ip.map digitChar ++ '.' :: fp.map digitChar ∧
    ip ≠ [] ∧ (∀ d ∈ ip, d < 10) ∧ (ip.length = 1 ∨ ip.head? ≠ some 0) ∧
    fp.length = s.conf.fxFmtDigits ∧ (∀ d ∈ fp, d < 10) ∧
    scaled = digitsValue ip * 10 ^ s.conf.fxFmtDigits + digitsValue fp ∧
    2 * (scaled * 2 ^ s.conf.fxFrac) ≤
      2 * (s.cmd.a0.toInt.natAbs * 10 ^ s.conf.fxFmtDigits) + 2 ^ s.conf.fxFrac ∧
    2 * (s.cmd.a0.toInt.natAbs * 10 ^ s.conf.fxFmtDigits) <
      2 * (scaled * 2 ^ s.conf.fxFrac) + 2 ^ s.conf.fxFrac ∧
    sign = (if s.cmd.a0.toInt < 0 ∧ scaled ≠ 0 then ['-'] else [])

/-! ### The single-wire decoder -/

/-- SWD_READ accepted (41_sensor_decoder.md R133; D13, D15): the whole next state. It is refused with a timeout of 0 or
less, and while the host's own completion signal is given (93_implementation_defined.md U1, U3). That the two loaded
timers first count on the tick after the command's own is log 8; that the host is now the caller served is the model's
record; that a completion of the LOOP task's is not the host's own is log 6. -/
def Obligations.ReadIsAcceptedWhenFree : Prop :=
  ∀ s : State,
    (0 < s.cmd.a0.toInt → s.swd.busy = false → s.cli.done = false → exec .swdRead s = .next { s with
      swd.busy := true, swd.gen := s.swd.gen + 1, swd.buf := Packet.zero, swd.bit := 0, cli.err := 0
      swd.lineDrive := true, swd.phase := .startPulse, swd.tStart := s.conf.tStart, swd.tRcv := s.cmd.a0
      run.served := some .host, run.freshStart := true, run.freshRcv := true }) ∧
    (s.cmd.a0.toInt ≤ 0 → exec .swdRead s = .refused .timeoutNotPositive) ∧
    (0 < s.cmd.a0.toInt → s.cli.done = true → s.run.served ≠ some .loop →
      exec .swdRead s = .refused .completionNotFresh)

/-- SWD_READ while the slot is busy, or while the LOOP task has not yet taken its completion, is held: nothing changes but
the queue of held commands, with its own deadline; and a held read enters the slot at the end of the step that frees it,
with what is left of that deadline (41_sensor_decoder.md R134; D16). That the previous completion must have been taken, and
so that a free slot holds the command until then, is log 6; that a deadline issued on this tick first counts on the next, as
the fresh marks say, is log 8. -/
def Obligations.BusyReadIsHeldThenAccepted : Prop :=
  (∀ s : State, 0 < s.cmd.a0.toInt →
    (s.swd.busy = true ∧ s.cli.done = false ∨ s.cli.done = true ∧ s.run.served = some .loop) →
    exec .swdRead s = .next { s with run.held := s.run.held ++ [⟨.host, s.cmd.a0, true⟩] }) ∧
  (∀ (s : State) (h : Held), s.swd.busy = false → s.cli.done = false → s.run.held = [h] →
    settle s = { s with
      swd.busy := true, swd.gen := s.swd.gen + 1, swd.buf := Packet.zero, swd.bit := 0, cli.err := 0
      swd.lineDrive := true, swd.phase := .startPulse, swd.tStart := s.conf.tStart, swd.tRcv := h.left
      run.served := some h.caller, run.held := [], run.freshStart := false, run.freshRcv := h.fresh })

/-- SWD_START_DONE releases the line, makes the signal fresh, arms the capture unit and enables the interrupts
(41_sensor_decoder.md R135, D17); outside START_PULSE it is not enabled. That the expired timer reads 0 is log 4. -/
def Obligations.StartDoneArmsCapture : Prop :=
  ∀ s : State,
    (s.swd.phase = .startPulse → exec .swdStartDone s = .next { s with
      swd.lineDrive := false, swd.sig := false, swd.irqEn := true
      cap.first := true, cap.cnt := 0, cap.lowLatch := 0
      swd.phase := .waitStart, swd.tWait := s.conf.tWait, swd.tStart := 0 }) ∧
    (s.swd.phase ≠ .startPulse → exec .swdStartDone s = .refused .noStartPulse)

/-- SWD_IRQ_CAPTURE, event code 0x80 with its pair as payload: while its enable is 1 it stores the pair and releases the
signal, whatever was there before (`low > period` included), and nothing else; while its enable is 0 it does not occur
(41_sensor_decoder.md R138). -/
def Obligations.CaptureOverwritesAndSignals : Prop :=
  ∀ (s : State) (period low : Half), period ≠ 0 → ∃ w : Word,
    samplePeriod w = period ∧ sampleSecond w = low ∧ decode (.event 0x80 w) = .ok (.swdIrqCapture period low) ∧
    (s.swd.irqEn = true → exec (.swdIrqCapture period low) s = .next { s with swd.sample := w, swd.sig := true }) ∧
    (s.swd.irqEn = false → exec (.swdIrqCapture period low) s = .refused .swdInterruptsDisabled)

/-- Overwrite: of two firings with no SWD_CONSUME between them, any two of SWD_IRQ_CAPTURE and SWD_IRQ_CAPTO, the first is
lost and the sequencer sees one sample, the second: the second firing's word stands in `swd.sample`, the signal is 1 after
either, the state is the one the second alone would have left, and after one SWD_CONSUME there is nothing to consume. The
same holds of `pca.sample` and `pca.sig`, and a PCA_READ that completes after two crossings with no take between them
returns the second's pair, the most recent (20_memory.md R72; 41_sensor_decoder.md R138, R139; 42_phase_actuator.md R166,
R171). That the timeout's word is 0 in `low` too is D11; that in a run a completion that is due takes the signal before a
second crossing is log 30, and no part of this statement. -/
def Obligations.SecondFiringOverwritesTheFirst : Prop :=
  (∀ (s : State) (i j : Instr), s.swd.irqEn = true →
    (i = .swdIrqCapto ∨ ∃ p q, p ≠ 0 ∧ i = .swdIrqCapture p q) →
    (j = .swdIrqCapto ∨ ∃ p q, p ≠ 0 ∧ j = .swdIrqCapture p q) →
    ∃ t u, exec i s = .next t ∧ t.swd.sig = true ∧ exec j t = .next u ∧ exec j s = .next u ∧ u.swd.sig = true ∧
      (j = .swdIrqCapto → u.swd.sample = 0) ∧
      (∀ p q, j = .swdIrqCapture p q → samplePeriod u.swd.sample = p ∧ sampleSecond u.swd.sample = q) ∧
      (Waiting s → ∃ v, exec .swdConsume u = .next v ∧ exec .swdConsume v = .refused .nothingToConsume)) ∧
  (∀ (s : State) (p q p' q' : Half), s.pca.irqEn = true →
    ∃ t u, exec (.pcaIrqZc p q) s = .next t ∧ t.pca.sig = true ∧
      exec (.pcaIrqZc p' q') t = .next u ∧ exec (.pcaIrqZc p' q') s = .next u ∧
      u.pca.sig = true ∧ samplePeriod u.pca.sample = p' ∧ sampleSecond u.pca.sample = q' ∧
      (s.run.pcaReadBlocked = true → ∃ v, runInput .pcaReturn u = .next v ∧
        v.cmd.r0 = p'.zeroExtend 32 ∧ v.cmd.r1 = q'.zeroExtend 32 ∧ v.pca.sig = false))

/-- SWD_IRQ_CAPTO stores `{0, 0}` and releases the signal (41_sensor_decoder.md R139; the 0 in `low` is D11); and while
its enable is 0 no source raises anything: the event has no next state (60_exceptions.md R232, D17). -/
def Obligations.InterruptsFollowTheirEnables : Prop :=
  ∀ s : State,
    (s.swd.irqEn = true → exec .swdIrqCapto s = .next { s with swd.sample := 0, swd.sig := true }) ∧
    (∀ (t : State) (p q : Half), s.swd.irqEn = false →
      exec (.swdIrqCapture p q) s ≠ .next t ∧ exec .swdIrqCapto s ≠ .next t) ∧
    (∀ (t : State) (p q : Half), s.pca.irqEn = false → exec (.pcaIrqZc p q) s ≠ .next t)

/-- A sample with `period = 0` ends the exchange with TIMEOUT in either waiting phase, whatever its `low` holds, and so
does the symbol TIMEOUT: interrupts off, slot free, buffer and code to the client, completion signalled
(41_sensor_decoder.md R136, R140; 30_encoding.md R84). -/
def Obligations.ZeroPeriodEndsWithTimeout : Prop :=
  ∀ s : State, Waiting s → s.swd.sig = true → samplePeriod s.swd.sample = 0 →
    exec .swdConsume s = .next (endedWith 2 s) ∧ exec .symTimeout s = .next (endedWith 2 s)

/-- A start sample outside the windows, or a bit sample outside them, ends the exchange with DECODE_ERROR, and so does
the symbol INVALID (41_sensor_decoder.md R136, R140; 30_encoding.md R83, R84; inclusive edges are D8). -/
def Obligations.NoiseEndsWithDecodeError : Prop :=
  ∀ (s : State) (low high : Int), s.swd.sig = true → samplePeriod s.swd.sample ≠ 0 →
    low = (sampleSecond s.swd.sample).toNat → high = (samplePeriod s.swd.sample).toNat - low →
    (s.swd.phase = .waitStart ∧
        ¬ (InTolerance low s.conf.vStartLow ∧ InTolerance high s.conf.vStartHigh) ∨
      s.swd.phase = .waitBit ∧
        ¬ (InTolerance low s.conf.vBitLow ∧ (InTolerance high s.conf.vOneHigh ∨ InTolerance high s.conf.vZeroHigh))) →
    exec .swdConsume s = .next (endedWith 3 s) ∧ exec .symInvalid s = .next (endedWith 3 s)

/-- A start sample inside both windows moves the sequencer to WAIT_BIT at bit 0 and reloads the wait timer, and nothing
else; so does the symbol START (41_sensor_decoder.md R136; 30_encoding.md R84; D8). -/
def Obligations.StartSampleBeginsTheBits : Prop :=
  ∀ (s : State) (low high : Int), s.swd.phase = .waitStart → s.swd.sig = true → samplePeriod s.swd.sample ≠ 0 →
    low = (sampleSecond s.swd.sample).toNat → high = (samplePeriod s.swd.sample).toNat - low →
    InTolerance low s.conf.vStartLow → InTolerance high s.conf.vStartHigh →
    exec .swdConsume s = .next { s with
      swd.sig := false, swd.phase := .waitBit, swd.bit := 0, swd.tWait := s.conf.tWait } ∧
    exec .symStart s = exec .swdConsume s

/-- A data sample before the last: the 1 test comes before the 0 test; the bit is stored at its place in arrival order,
every other bit of the packet keeps its value, the count advances, the wait timer is reloaded, and nothing else changes;
the symbols BIT1 and BIT0 do the same (41_sensor_decoder.md R136; 30_encoding.md R84, R86; D8, D12). -/
def Obligations.DataSampleStoresOneBit : Prop :=
  ∀ (s : State) (low high : Int) (b : Bool),
    s.swd.phase = .waitBit → s.swd.sig = true → samplePeriod s.swd.sample ≠ 0 →
    s.swd.bit + 1 < s.conf.nBits →
    low = (sampleSecond s.swd.sample).toNat → high = (samplePeriod s.swd.sample).toNat - low →
    InTolerance low s.conf.vBitLow →
    (b = true ∧ InTolerance high s.conf.vOneHigh ∨
      b = false ∧ InTolerance high s.conf.vZeroHigh ∧ ¬ InTolerance high s.conf.vOneHigh) →
    ∃ buf : Packet,
      exec .swdConsume s = .next { s with
        swd.sig := false, swd.buf := buf, swd.bit := s.swd.bit + 1, swd.tWait := s.conf.tWait } ∧
      exec (if b then .symBit1 else .symBit0) s = exec .swdConsume s ∧
      ∀ i, i < 40 → packetBit buf i = if i = s.swd.bit then b else packetBit s.swd.buf i

/-- The sample of the last bit, number N_BITS, is stored before the checksum is tested, and the exchange ends: code 0 when
byte 4 is the low 8 bits of the sum of bytes 0 to 3, else CHECKSUM_ERROR; the client gets the complete packet
(41_sensor_decoder.md R136, R140; 30_encoding.md R87; D8, D12). -/
def Obligations.LastBitTestsTheChecksum : Prop :=
  ∀ (s : State) (low high : Int) (b : Bool),
    s.swd.phase = .waitBit → s.swd.sig = true → samplePeriod s.swd.sample ≠ 0 →
    s.swd.bit + 1 = s.conf.nBits →
    low = (sampleSecond s.swd.sample).toNat → high = (samplePeriod s.swd.sample).toNat - low →
    InTolerance low s.conf.vBitLow →
    (b = true ∧ InTolerance high s.conf.vOneHigh ∨
      b = false ∧ InTolerance high s.conf.vZeroHigh ∧ ¬ InTolerance high s.conf.vOneHigh) →
    ∃ (buf : Packet) (e : Byte),
      exec .swdConsume s = .next (endedWith e { s with swd.buf := buf, swd.bit := s.conf.nBits }) ∧
      exec (if b then .symBit1 else .symBit0) s = exec .swdConsume s ∧
      (∀ i, i < 40 → packetBit buf i = if i = s.swd.bit then b else packetBit s.swd.buf i) ∧
      e = if buf[4] = buf[0] + buf[1] + buf[2] + buf[3] then 0 else 4

/-- With the nominal timings 50, 27 and 70 a data sample whose low phase lies in its window, 25 to 75, decodes by its high
phase alone: 14 to 34 is BIT0, 35 to 105 is BIT1, anything else INVALID (30_encoding.md R85, derived there; D8). -/
def Obligations.BitIsReadFromTheHighPhase : Prop :=
  ∀ (c : Config) (w : Word) (high : Int), c.vBitLow = 50 → c.vZeroHigh = 27 → c.vOneHigh = 70 →
    samplePeriod w ≠ 0 → 25 ≤ (sampleSecond w).toNat → (sampleSecond w).toNat ≤ 75 →
    high = (samplePeriod w).toNat - (sampleSecond w).toNat →
    classifyBit c w =
      if 14 ≤ high ∧ high ≤ 34 then .bit0 else if 35 ≤ high ∧ high ≤ 105 then .bit1 else .invalid

/-- SWD_WAIT_EXPIRE ends the exchange with IRQ_TIMEOUT; with a signal present it is not enabled
(41_sensor_decoder.md R137, R140; D40). -/
def Obligations.WaitExpiryEndsWithIrqTimeout : Prop :=
  ∀ s : State, Waiting s →
    (s.swd.sig = false → exec .swdWaitExpire s = .next (endedWith 1 s)) ∧
    (s.swd.sig = true → exec .swdWaitExpire s = .refused .waitNotExpired)

/-- SWD_DEADLINE of the command being served cancels the exchange: line released, interrupts off, slot free, RCV_TIMEOUT
in `cli.err` and `cmd.status`, and the completion signal is not given; the deadline of a held command changes only
`cli.err` and `cmd.status`, and the command leaves the queue (41_sensor_decoder.md R134, R141; D15, D16). A caller is no
longer blocked then; LOOP_TICK goes on with status 5 (log 10). Which command a Level S event means is log 7: the served one,
else the first held one; with neither it is refused (log 13). -/
def Obligations.DeadlineCancelsOrOnlyReports : Prop :=
  (∀ (s : State) (c : Caller), s.swd.busy = true → s.cli.done = false → s.run.served = some c →
    exec .swdDeadline s = .next { s with
      swd.irqEn := false, swd.sig := false, swd.lineDrive := false
      swd.tWait := 0, swd.tStart := 0, swd.tRcv := 0, swd.phase := .idle, swd.busy := false
      cli.err := 5, cmd.status := 5
      run.served := none, run.stage := if c = .loop then .record 5 else s.run.stage }) ∧
  (∀ (s : State) (k : Nat) (h : Held), s.run.held[k]? = some h →
    runInput (.heldExpire k) s = .next { s with
      cli.err := 5, cmd.status := 5, run.held := s.run.held.eraseIdx k
      run.stage := if h.caller = .loop then .record 5 else s.run.stage }) ∧
  (∀ s : State, ¬ (s.swd.busy = true ∧ s.cli.done = false) →
    (∀ (h : Held) (hs : List Held), s.run.held = h :: hs → exec .swdDeadline s = .next { s with
      cli.err := 5, cmd.status := 5, run.held := hs
      run.stage := if h.caller = .loop then .record 5 else s.run.stage }) ∧
    (s.run.held = [] → exec .swdDeadline s = .refused .noReadOutstanding))

/-- The host's completion of SWD_READ: the signal is taken and the status reported; on success both readings are
converted (sign flag, not two's complement) and sign-extended into `r0` and `r1`; on an error readings and result
registers keep their values (41_sensor_decoder.md R142, R143; 30_encoding.md R87, R97; D12, D45). -/
def Obligations.CompletionReturnsTheReading : Prop :=
  ∀ s : State, s.run.served = some .host → s.cli.done = true →
    (s.cli.err ≠ 0 → runInput .swdReturn s = .next { s with
      cli.done := false, cmd.status := s.cli.err, run.served := none }) ∧
    (s.cli.err = 0 → ∃ t h : Half, runInput .swdReturn s = .next { s with
        cli.done := false, cmd.status := 0, run.served := none
        swd.temperature := t, swd.humidity := h, cmd.r0 := t.signExtend 32, cmd.r1 := h.signExtend 32 } ∧
      h = s.cli.buf[0] ++ s.cli.buf[1] ∧
      t.toInt = (if s.cli.buf[2].msb then -1 else 1) *
        (((s.cli.buf[2].toNat % 128) * 256 + s.cli.buf[3].toNat : Nat) : Int))

/-- The exchange as a function of its consumed samples: from WAIT_START with a cleared buffer, feeding the samples one by
one ends the machine with the code, or the packet whose readings, `swd_run` gives, or leaves it waiting where `swd_run`
is pending (41_sensor_decoder.md R144, derived there). -/
def Obligations.ExchangeComputesSwdRun : Prop :=
  ∀ (s : State) (ws : List Word), s.swd.phase = .waitStart → s.swd.irqEn = true → s.swd.buf = Packet.zero →
    match exchange s.conf ws with
    | .pending => Waiting (feedAll ws s) ∧ (feedAll ws s).swd.irqEn = true ∧ (feedAll ws s).cli = s.cli
    | .error e => feedAll ws s = endedWith e (feedAll ws s)
    | .reading t h =>
      feedAll ws s = endedWith 0 (feedAll ws s) ∧
      temperatureOf (feedAll ws s).cli.buf = t ∧ humidityOf (feedAll ws s).cli.buf = h

/-! ### The phase-control actuator -/

/-- PCA_INIT on a configuration that meets 42_phase_actuator.md R163 loads the table, turns the actuator off and enables
the zero-crossing interrupt (R162; D25, D39; the status is log 25); a second one, and a table outside R163, are refused
(U4, U5). -/
def Obligations.InitLoadsTheTable : Prop :=
  ∀ s : State,
    (s.pca.irqEn = false → phaseTableOk s.conf = true → exec .pcaInit s = .next { s with
      pca.table := s.conf.pcaTable, pca.level := 0, pca.phaseEntry := s.conf.pcaTable.headD 0
      pca.width := 0, pca.bypass := false, pca.irqEn := true, cmd.status := 0 }) ∧
    (s.pca.irqEn = true → exec .pcaInit s = .refused .pcaAlreadyInitialised) ∧
    (s.pca.irqEn = false → phaseTableOk s.conf = false → exec .pcaInit s = .refused .phaseTableIllFormed)

/-- PCA_SET never fails once initialised: 0 or less is off, PCA_MAX or more is on, anything between looks up the phase
entry and arms the pulse width (42_phase_actuator.md R165; 30_encoding.md R90; one atomic step is D21). Before PCA_INIT it
is refused (U4, 70_reset_and_hazards.md R265). -/
def Obligations.SetSelectsOffOnOrPhase : Prop :=
  ∀ s : State,
    (s.pca.irqEn = true → s.cmd.a0.toInt ≤ 0 → exec .pcaSet s = .next { s with
      pca.level := s.cmd.a0, pca.bypass := false, pca.width := 0, cmd.status := 0 }) ∧
    (s.pca.irqEn = true → 0 < s.cmd.a0.toInt → (s.conf.pcaMax : Int) ≤ s.cmd.a0.toInt →
      exec .pcaSet s = .next { s with
        pca.level := s.cmd.a0, pca.bypass := true, pca.width := 0, cmd.status := 0 }) ∧
    (∀ e : Word, s.pca.irqEn = true → 0 < s.cmd.a0.toInt → s.cmd.a0.toInt < (s.conf.pcaMax : Int) →
      s.pca.table[s.cmd.a0.toNat]? = some e →
      exec .pcaSet s = .next { s with
        pca.level := s.cmd.a0, pca.bypass := false, pca.width := s.conf.pcaPulseW, pca.phaseEntry := e
        cmd.status := 0 }) ∧
    (s.pca.irqEn = false → exec .pcaSet s = .refused .pcaNotInitialised)

/-- PCA_IRQ_ZC: the pair is stored and signalled, Counter C's period becomes `half - 1` and Counter B is restarted with
`((offset - half) >> 1) + ((phase_entry * half) >> SHIFT)`, both modulo 2^16, both shifts toward minus infinity, and
nothing else changes (42_phase_actuator.md R166; signedness and narrowing are D19). -/
def Obligations.ZeroCrossingLoadsTheDelay : Prop :=
  ∀ (s : State) (period offset : Half), s.pca.irqEn = true → ∃ (w : Word) (reload load : Half),
    exec (.pcaIrqZc period offset) s = .next { s with
      pca.sample := w, pca.sig := true, pca.cReload := reload, pca.bLoad := load
      pca.bCnt := 0, pca.bRun := true } ∧
    samplePeriod w = period ∧ sampleSecond w = offset ∧
    ∃ half lead frac : Int,
      (2 * half = period.toNat ∨ 2 * half + 1 = period.toNat) ∧
      2 * lead ≤ offset.toNat - half ∧ (offset.toNat : Int) - half < 2 * lead + 2 ∧
      frac * 2 ^ s.conf.pcaShift ≤ s.pca.phaseEntry.toNat * half ∧
      s.pca.phaseEntry.toNat * half < (frac + 1) * 2 ^ s.conf.pcaShift ∧
      (2 ^ 16 : Int) ∣ reload.toNat - (half - 1) ∧ (2 ^ 16 : Int) ∣ load.toNat - (lead + frac)

/-- For fixed `period` and `offset` a higher interior level never gives a longer delay (42_phase_actuator.md R174, derived
there from R163 and R166). -/
def Obligations.HigherLevelNeverDelaysLonger : Prop :=
  ∀ (c : Config) (a b : Nat) (ea eb : Word) (period offset : Half), phaseTableOk c = true →
    0 < a → a < b → b < c.pcaMax → c.pcaTable[a]? = some ea → c.pcaTable[b]? = some eb →
    phaseDelay c.pcaShift eb period offset ≤ phaseDelay c.pcaShift ea period offset

/-- PCA_B_EXPIRE, event code 0x91, stops Counter B and restarts Counter C, and nothing else; with `b_run = 0` it does not
occur; at Level T it occurs where the counter stands at its load; and in mode PHASE a pulse begins
(42_phase_actuator.md R169). -/
def Obligations.ExpiryOfBRestartsC : Prop :=
  decode (.event 0x91 0) = .ok .pcaBExpire ∧
  ∀ s t : State, t = { s with pca.bRun := false, pca.cCnt := 0, pca.cRun := true } →
    (s.pca.bRun = true → exec .pcaBExpire s = .next t) ∧
    (s.pca.bRun = false → exec .pcaBExpire s = .refused .counterBStopped) ∧
    (s.pca.bRun = true → s.pca.bCnt = s.pca.bLoad → countersBC s = t) ∧
    (pcaMode s = .phase → pcaDrive t = true)

/-- PCA_C_RELOAD starts Counter C from 0 again, so that in mode PHASE a pulse begins (42_phase_actuator.md R168, R170). -/
def Obligations.ReloadOfCBeginsAPulse : Prop :=
  ∀ s : State, s.pca.cRun = true →
    exec .pcaCReload s = .next { s with pca.cCnt := 0 } ∧
    (pcaMode s = .phase → pcaDrive { s with pca.cCnt := 0 } = true)

/-- PCA_READ clears the stale signal, starts its window and blocks; with a crossing in the window it completes with that
crossing's pair, zero-extended, and status 0, and two crossings in the window return the pair of the first, whether they
come as events or on ticks; PCA_READ_EXPIRE reports NO_SIGNAL, keeps `r0` and `r1`, and the command returns, but is not
enabled with a crossing present (42_phase_actuator.md R171, R172; 30_encoding.md R97; D23, D40). That the window's timer
first counts on the next tick is log 8, that it reads 0 after the expiry log 4; a second PCA_READ while one is blocked is
log 12; that the completion runs before the second crossing at the latest is log 30. -/
def Obligations.DiagnosticReadReturnsOrReportsNoSignal : Prop :=
  ∀ s : State,
    exec .pcaRead s = .next { s with
      pca.sig := false, pca.tRead := s.conf.tPcaRead
      run.pcaReadBlocked := true, run.freshRead := true } ∧
    (s.run.pcaReadBlocked = true → s.pca.sig = true →
      runInput .pcaReturn s = .next { s with
        pca.sig := false, pca.tRead := 0, run.pcaReadBlocked := false
        cmd.r0 := (samplePeriod s.pca.sample).zeroExtend 32, cmd.r1 := (sampleSecond s.pca.sample).zeroExtend 32
        cmd.status := 0 } ∧
      exec .pcaReadExpire s = .refused .readWindowOpen) ∧
    (s.run.pcaReadBlocked = true → s.pca.sig = false →
      runInput .pcaReturn s = .refused .taskBlocked ∧
      exec .pcaReadExpire s = .next { s with
        cmd.status := 6, pca.tRead := 0, run.pcaReadBlocked := false }) ∧
    (∀ (w w' : Word) (rest : List Input), s.pca.irqEn = true →
      s.trace = .issue 0x21 :: .event 0x90 w :: .event 0x90 w' :: rest →
      ∃ t u v, step s = .next t ∧ step t = .next u ∧ step u = .next v ∧
        v.run.pcaReadBlocked = false ∧ v.cmd.status = 0 ∧
        v.cmd.r0 = (samplePeriod w).zeroExtend 32 ∧ v.cmd.r1 = (sampleSecond w).zeroExtend 32 ∧
        v.pca.sample = w' ∧ v.pca.sig = true) ∧
    (∀ low consume : Bool, s.pca.irqEn = true → s.pca.aFirst = false → s.pca.aPrev = false →
      s.run.pcaReadBlocked = true → s.pca.sig = true →
      ∃ t, runInput (.tick low true consume) s = .next t ∧ t.run.pcaReadBlocked = false ∧ t.pca.sig = true ∧
        t.cmd.r0 = (samplePeriod s.pca.sample).zeroExtend 32 ∧ t.cmd.r1 = (sampleSecond s.pca.sample).zeroExtend 32 ∧
        samplePeriod t.pca.sample = s.pca.aCnt + 1 ∧ sampleSecond t.pca.sample = s.pca.aHigh)

/-- The phase table is immutable once built: no step of an initialised machine changes it or un-initialises the machine
(10_state.md R36, 60_exceptions.md R232). -/
def Obligations.TableIsImmutable : Prop :=
  ∀ s t : State, s.pca.irqEn = true → step s = .next t → t.pca.table = s.pca.table ∧ t.pca.irqEn = true

/-- The Dimmer Command State is written only by PCA_SET (and set up by PCA_INIT): no other input changes it; so in mode
OFF the drive output stays 0 and in mode ON it stays 1 until the actuator is commanded again (10_state.md R30, R31;
42_phase_actuator.md R168, D21). -/
def Obligations.OnlySetCommandsTheActuator : Prop :=
  ∀ (s t : State) (x : Input) (rest : List Input), s.trace = x :: rest → ¬ CommandsActuator x s → step s = .next t →
    (t.pca.level = s.pca.level ∧ t.pca.phaseEntry = s.pca.phaseEntry ∧ t.pca.width = s.pca.width ∧
      t.pca.bypass = s.pca.bypass) ∧
    (pcaMode s = .off → pcaMode t = .off ∧ pcaDrive t = false) ∧
    (pcaMode s = .on → pcaMode t = .on ∧ pcaDrive t = true)

/-! ### The PID controller -/

/-- The first call returns `clamp(Kp * error, low, high)`, seeds the previous error and timestamp, and leaves the
accumulator (43_pid.md R192, R193; D4, D27, D31; the status is log 25): the whole next state. -/
def Obligations.FirstComputeSeeds : Prop :=
  ∀ (s : State) (e p : Int), s.pid.hasPrev = false → e = s.cmd.a1.toInt - s.cmd.a0.toInt →
    p = s.pid.kp.toInt * e / 2 ^ s.conf.fxFrac → ∃ r : Word,
    exec .pidCompute s = .next { s with
      cmd.r0 := r, cmd.status := 0
      pid.prevError := BitVec.ofInt 32 e, pid.prevTs := s.cmd.a2, pid.hasPrev := true } ∧
    r.toInt = if p < s.pid.low.toInt then s.pid.low.toInt else if s.pid.high.toInt < p then s.pid.high.toInt else p

/-- A later call with `dt >= 0`: the accumulator gains `error * dt` and is reclamped and stored, the derivative is 0 when
`dt = 0`, and the output is the clamped sum of the three terms, the integral term from the stored accumulator; the whole
next state. A call with `dt < 0` is refused (43_pid.md R192, R194, R195; 93_implementation_defined.md U7; D4, D5, D28,
D29, D31; the status is log 25). -/
def Obligations.LaterComputeCombinesThreeTerms : Prop :=
  ∀ (s : State) (e dt deriv out : Int) (i : Word), s.pid.hasPrev = true →
    e = s.cmd.a1.toInt - s.cmd.a0.toInt → dt = (s.cmd.a2 - s.pid.prevTs).toInt →
    i = BitVec.ofInt 32 (pidReclamp s.conf.fxFrac s.pid (s.pid.integral.toInt + e * dt / 2 ^ s.conf.fxFrac)) →
    deriv = (if dt = 0 then 0 else Int.tdiv ((e - s.pid.prevError.toInt) * 2 ^ s.conf.fxFrac) dt) →
    out = s.pid.kp.toInt * e / 2 ^ s.conf.fxFrac + s.pid.ki.toInt * i.toInt / 2 ^ s.conf.fxFrac
      + s.pid.kd.toInt * deriv / 2 ^ s.conf.fxFrac →
    (dt < 0 → exec .pidCompute s = .refused .timestampBackwards) ∧
    (0 ≤ dt → ∃ r : Word, exec .pidCompute s = .next { s with
        cmd.r0 := r, cmd.status := 0, pid.integral := i
        pid.prevError := BitVec.ofInt 32 e, pid.prevTs := s.cmd.a2, pid.hasPrev := true } ∧
      r.toInt =
        if out < s.pid.low.toInt then s.pid.low.toInt else if s.pid.high.toInt < out then s.pid.high.toInt else out)

/-- With `Ki = Kd = 0` every call that the precondition allows returns exactly `clamp(Kp * error, low, high)`
(43_pid.md R200 (1), derived there). -/
def Obligations.ProportionalOnlyIsExact : Prop :=
  ∀ (s : State) (p : Int), s.pid.ki = 0 → s.pid.kd = 0 →
    (s.pid.hasPrev = false ∨ 0 ≤ (s.cmd.a2 - s.pid.prevTs).toInt) →
    p = s.pid.kp.toInt * (s.cmd.a1.toInt - s.cmd.a0.toInt) / 2 ^ s.conf.fxFrac →
    ∃ t, exec .pidCompute s = .next t ∧
      t.cmd.r0.toInt =
        if p < s.pid.low.toInt then s.pid.low.toInt else if s.pid.high.toInt < p then s.pid.high.toInt else p

/-- With `low <= high` every output lies within the bounds, whatever the gains and the accumulator (43_pid.md R192,
R200 (3), 70_reset_and_hazards.md R275). -/
def Obligations.OutputStaysWithinLimits : Prop :=
  ∀ s t : State, s.pid.low.toInt ≤ s.pid.high.toInt → exec .pidCompute s = .next t →
    s.pid.low.toInt ≤ t.cmd.r0.toInt ∧ t.cmd.r0.toInt ≤ s.pid.high.toInt

/-- PID_SET_COEF replaces the gains and nothing else of the PID state: the accumulator is not rescaled (43_pid.md R196,
D32; the status, OK, is log 25). -/
def Obligations.SetCoefOnlyReplacesGains : Prop :=
  ∀ s : State, exec .pidSetCoef s = .next { s with
    pid.kp := s.cmd.a0, pid.ki := s.cmd.a1, pid.kd := s.cmd.a2, cmd.status := 0 }

/-- PID_SET_LIMITS replaces the bounds and reclamps the accumulator at once: untouched where `Ki = 0` or its term lies
within the new bounds, else set to the violated bound divided by `Ki` (43_pid.md R191, R197; D4, D5, D30; the
status, OK, is log 25). -/
def Obligations.SetLimitsReclampsAtOnce : Prop :=
  ∀ (s : State) (term : Int), term = s.pid.ki.toInt * s.pid.integral.toInt / 2 ^ s.conf.fxFrac → ∃ i : Word,
    exec .pidSetLimits s = .next { s with
      pid.low := s.cmd.a0, pid.high := s.cmd.a1, pid.integral := i, cmd.status := 0 } ∧
    (s.pid.ki = 0 → i = s.pid.integral) ∧
    (s.pid.ki ≠ 0 → s.cmd.a1.toInt < term →
      i = BitVec.ofInt 32 (Int.tdiv (s.cmd.a1.toInt * 2 ^ s.conf.fxFrac) s.pid.ki.toInt)) ∧
    (s.pid.ki ≠ 0 → term ≤ s.cmd.a1.toInt → term < s.cmd.a0.toInt →
      i = BitVec.ofInt 32 (Int.tdiv (s.cmd.a0.toInt * 2 ^ s.conf.fxFrac) s.pid.ki.toInt)) ∧
    (term ≤ s.cmd.a1.toInt → s.cmd.a0.toInt ≤ term → i = s.pid.integral)

/-- What the anti-windup keeps true: right after PID_SET_LIMITS, or a PID_COMPUTE that is not the first, the integral term
lies within the bounds up to `ceil(|Ki| / 2^F)` raw units, provided `Ki` is not 0, the bounds are ordered and the
reclamped value fits 32 bits (43_pid.md R199, derived there). -/
def Obligations.AntiWindupBoundsTheIntegralTerm : Prop :=
  ∀ (s t : State) (slack reclamped term : Int), s.pid.ki ≠ 0 → t.pid.low.toInt ≤ t.pid.high.toInt →
    slack * 2 ^ s.conf.fxFrac < |s.pid.ki.toInt| + 2 ^ s.conf.fxFrac → |s.pid.ki.toInt| ≤ slack * 2 ^ s.conf.fxFrac →
    (exec .pidSetLimits s = .next t ∧ reclamped = pidReclamp s.conf.fxFrac t.pid s.pid.integral.toInt ∨
      exec .pidCompute s = .next t ∧ s.pid.hasPrev = true ∧
        reclamped = pidReclamp s.conf.fxFrac t.pid (s.pid.integral.toInt +
          (s.cmd.a1.toInt - s.cmd.a0.toInt) * (s.cmd.a2 - s.pid.prevTs).toInt / 2 ^ s.conf.fxFrac)) →
    fits32 reclamped = true →
    term = t.pid.ki.toInt * t.pid.integral.toInt / 2 ^ s.conf.fxFrac →
    t.pid.low.toInt - slack ≤ term ∧ term ≤ t.pid.high.toInt + slack

/-- PID state is mutated only by `compute`, `set_coef` and `set_limits`: no other input changes it (10_state.md R38). -/
def Obligations.OnlyPidOperationsMutatePid : Prop :=
  ∀ (s t : State) (x : Input) (rest : List Input), s.trace = x :: rest → ¬ CommandsPid x s → step s = .next t →
    t.pid = s.pid

/-! ### The control loop -/

/-- LOOP_TICK with a free lock acquires it; the LOOP task's next four operations take one consistent snapshot, release
the lock, and push gains and limits into the PID by `set_coef` and `set_limits`; its next one reads the sensor: an SWD_READ
with timeout T_RCV, accepted where the slot is free and held where it is busy or the host has not yet taken its completion,
after which the task is blocked (44_control_loop.md R211, R212; 41_sensor_decoder.md R133, R134; D36; the division into
operations is log 10, the host's completion log 6, the status of the two PID calls log 25; T_RCV stands for the 10000 of
R211 by log 3; that the timers of the task's read are not fresh, the held one's neither, is log 8). -/
def Obligations.LoopTickLoadsTheConfiguration : Prop :=
  (∀ (s : State) (p : Pid), s.run.stage = .idle → s.cfgLock = false →
    p = { s.pid with kp := s.ext.cfg.kp, ki := s.ext.cfg.ki, kd := s.ext.cfg.kd, low := s.ext.cfg.low
                     high := s.ext.cfg.high } →
    ∃ t, exec .loopTick s = .next t ∧ t = { s with cfgLock := true, run.stage := .snapshot, run.tLock := 0 } ∧
      loopSteps 4 t = .next { s with
        loop.cfg := s.ext.cfg, run.stage := .read, run.tLock := 0, cmd.status := 0
        pid := { p with
          integral := BitVec.ofInt 32 (pidReclamp s.conf.fxFrac p s.pid.integral.toInt) } }) ∧
  (∀ s : State, s.run.stage = .read → 0 < s.conf.tRcv.toInt →
    (s.swd.busy = false → s.cli.done = false → loopStep s = .next { s with
      swd.busy := true, swd.gen := s.swd.gen + 1, swd.buf := Packet.zero, swd.bit := 0, cli.err := 0
      swd.lineDrive := true, swd.phase := .startPulse, swd.tStart := s.conf.tStart, swd.tRcv := s.conf.tRcv
      run.served := some .loop, run.freshStart := false, run.freshRcv := false, run.stage := .waiting }) ∧
    (s.swd.busy = true ∧ s.cli.done = false ∨ s.cli.done = true ∧ s.run.served = some .host →
      loopStep s = .next { s with
        run.stage := .waiting, run.held := s.run.held ++ [⟨.loop, s.conf.tRcv, false⟩] }))

/-- LOOP_TICK with a held lock waits: once the lock is free it is acquired; if the bound passes while it is still held, and
at once where T_LOCK is 0 (log 29), configuration and PID keep their values and the tick goes on with the sensor
(44_control_loop.md R211, R212; 20_memory.md R74); a second LOOP_TICK before the first has returned is refused
(70_reset_and_hazards.md R276). The stages are log 10; that the bound first counts on the next tick is log 8. -/
def Obligations.HeldLockSkipsTheUpdate : Prop :=
  ∀ s : State,
    (s.run.stage = .idle → s.cfgLock = true → s.conf.tLock ≠ 0 → ∃ t, exec .loopTick s = .next t ∧
      t = { s with run.stage := .acquire, run.tLock := s.conf.tLock, run.freshLock := true } ∧
      runInput .lockExpire t = .next { t with run.stage := .read, run.tLock := 0 }) ∧
    (s.run.stage = .idle → s.cfgLock = true → s.conf.tLock = 0 →
      exec .loopTick s = .next { s with run.stage := .read, run.tLock := 0 }) ∧
    (s.run.stage = .acquire → s.cfgLock = false →
      loopStep s = .next { s with cfgLock := true, run.stage := .snapshot, run.tLock := 0 }) ∧
    (s.run.stage ≠ .idle → exec .loopTick s = .refused .loopTickOverlap)

/-- Step 2 of LOOP_TICK: the LOOP task takes the completion of its SWD_READ; on success both readings are converted and
retained, on an error the error counter advances modulo 2^32 and the previous good reading is retained; and where the read
ended by its deadline the counter advances the same way and nothing is taken: the whole next state each time
(44_control_loop.md R211, R213; 41_sensor_decoder.md R141, R143; D15, D39, D45; that the task carries the status in its
stage is log 10, which read an SWD_DEADLINE means log 7). -/
def Obligations.LoopRetainsTheLastGoodReading : Prop :=
  (∀ (s : State) (t h : Half), s.run.stage = .waiting → s.run.served = some .loop → s.cli.done = true →
    t = temperatureOf s.cli.buf → h = humidityOf s.cli.buf →
    (s.cli.err = 0 → loopSteps 2 s = .next { s with
      cli.done := false, cmd.status := 0, run.served := none, run.stage := .compute 0
      swd.temperature := t, swd.humidity := h, cmd.r0 := t.signExtend 32, cmd.r1 := h.signExtend 32
      loop.lastTemperature := t, loop.lastHumidity := h, loop.haveReading := true }) ∧
    (s.cli.err ≠ 0 → loopSteps 2 s = .next { s with
      cli.done := false, cmd.status := s.cli.err, run.served := none, run.stage := .compute s.cli.err
      loop.errCount := s.loop.errCount + 1 })) ∧
  (∀ s : State, s.run.stage = .waiting → s.run.served = some .loop → s.swd.busy = true → s.cli.done = false →
    ∃ t, exec .swdDeadline s = .next t ∧ loopStep t = .next { s with
      swd.irqEn := false, swd.sig := false, swd.lineDrive := false
      swd.tWait := 0, swd.tStart := 0, swd.tRcv := 0, swd.phase := .idle, swd.busy := false
      cli.err := 5, cmd.status := 5, run.served := none, run.stage := .compute 5
      loop.errCount := s.loop.errCount + 1 })

/-- Step 3 of LOOP_TICK in PID mode: the selected reading in tenths becomes an `fx` (toward zero), PID_COMPUTE runs on it
with the day or night setpoint at the supplied time, first call or later, the floor of its output is the level commanded to
the actuator, and the tick returns the status of its SWD_READ; the whole next state. The first call's output is written
out. A later call with a time that has gone back is refused (U7, log 23), and before PCA_INIT the level is (U4, log 11).
44_control_loop.md R211, R214; 43_pid.md R192, R193; D4, D33, D34. That these are three operations, that the task carries
the status in its stage and that `cmd.a0` to `cmd.a2` are not touched is log 10; when the ports are sampled is log 27. -/
def Obligations.LoopDrivesTheActuatorFromTheReading : Prop :=
  ∀ (s call : State) (st : Byte) (reading : Half) (input sp : Word) (e p : Int), s.run.stage = .compute st →
    s.loop.cfg.manual = false → s.loop.haveReading = true →
    (s.conf.loopInputSel = .temperature ∧ reading = s.loop.lastTemperature ∨
      s.conf.loopInputSel = .humidity ∧ reading = s.loop.lastHumidity) →
    input = BitVec.ofInt 32 (Int.tdiv (reading.toInt * 2 ^ s.conf.fxFrac) 10) →
    sp = (if s.ext.isDay then s.loop.cfg.spDay else s.loop.cfg.spNight) →
    call = { s with cmd.a0 := input, cmd.a1 := sp, cmd.a2 := s.ext.now } →
    e = sp.toInt - input.toInt → p = s.pid.kp.toInt * e / 2 ^ s.conf.fxFrac →
    (s.pid.hasPrev = true → (s.ext.now - s.pid.prevTs).toInt < 0 → loopSteps 3 s = .refused .timestampBackwards) ∧
    (s.pid.hasPrev = false ∨ 0 ≤ (s.ext.now - s.pid.prevTs).toInt → ∃ u, exec .pidCompute call = .next u ∧
      (s.pid.hasPrev = false →
        u.pid = { s.pid with prevError := BitVec.ofInt 32 e, prevTs := s.ext.now, hasPrev := true } ∧
        u.cmd.r0.toInt =
          (if p < s.pid.low.toInt then s.pid.low.toInt else if s.pid.high.toInt < p then s.pid.high.toInt else p)) ∧
      (s.pca.irqEn = false → loopSteps 3 s = .refused .pcaNotInitialised) ∧
      (s.pca.irqEn = true → ∃ (level entry : Word) (width : Half) (bypass : Bool),
        loopSteps 3 s = .next { s with
          cmd.r0 := u.cmd.r0, cmd.status := st, run.stage := .idle, pid := u.pid
          pca.level := level, pca.phaseEntry := entry, pca.width := width, pca.bypass := bypass } ∧
        level.toInt * 2 ^ s.conf.fxFrac ≤ u.cmd.r0.toInt ∧
        u.cmd.r0.toInt < (level.toInt + 1) * 2 ^ s.conf.fxFrac ∧
        bypass = decide (0 < level.toInt ∧ (s.conf.pcaMax : Int) ≤ level.toInt) ∧
        (0 < level.toInt ∧ level.toInt < (s.conf.pcaMax : Int) →
          width = s.conf.pcaPulseW ∧ entry = s.pca.table[level.toNat]?.getD 0) ∧
        (¬ (0 < level.toInt ∧ level.toInt < (s.conf.pcaMax : Int)) → width = 0 ∧ entry = s.pca.phaseEntry)))

/-- In manual mode, or before any good reading, the tick neither computes nor commands the actuator and returns the
status of its SWD_READ (44_control_loop.md R211, R214; D34, D35): the whole next state. That it takes two operations and
that the task carries the status in its stage is log 10. -/
def Obligations.ManualModeLeavesPidAndActuator : Prop :=
  ∀ (s : State) (st : Byte), s.run.stage = .compute st → (s.loop.cfg.manual = true ∨ s.loop.haveReading = false) →
    loopSteps 2 s = .next { s with cmd.status := st, run.stage := .idle }

/-! ### Level T -/

/-- The capture unit measures: the first falling edge after arming fires no sample and starts the count; after a falling
edge (counter 0, pin low), `a - 1` more low ticks, `b` high ticks and a falling edge fire exactly one sample, `low = a` and
`period = a + b`, provided the interval stays within the timeout; and with the pin high throughout the timeout fires on the
`T_CAPTO`-th tick and not before, and the counter reloads (41_sensor_decoder.md R139, R148; D10, D11). -/
def Obligations.CaptureMeasuresLowAndPeriod : Prop :=
  (∀ s : State, s.swd.irqEn = true → s.cap.first = true → s.cap.prev = true → s.conf.tCapto ≠ 0 →
    captureUnit false s = { s with cap.first := false, cap.cnt := 0, cap.prev := false }) ∧
  (∀ (s : State) (a b : Nat), s.swd.irqEn = true → s.cap.first = false → s.cap.cnt = 0 → s.cap.prev = false →
    0 < a → 0 < b → a + b ≤ s.conf.tCapto.toNat →
    (repeatOp (captureUnit true) b (repeatOp (captureUnit false) (a - 1) s)).swd = s.swd ∧
    ∃ t, t = captureUnit false (repeatOp (captureUnit true) b (repeatOp (captureUnit false) (a - 1) s)) ∧
      t.swd.sig = true ∧ (samplePeriod t.swd.sample).toNat = a + b ∧ (sampleSecond t.swd.sample).toNat = a ∧
      t.cap.cnt = 0) ∧
  (∀ (s : State) (n : Nat), s.swd.irqEn = true → s.cap.cnt = 0 → s.cap.prev = true →
    n = s.conf.tCapto.toNat → 0 < n →
    (∀ k, k < n → (repeatOp (captureUnit true) k s).swd = s.swd) ∧
    (repeatOp (captureUnit true) n s).swd = { s.swd with sample := 0, sig := true } ∧
    (repeatOp (captureUnit true) n s).cap.cnt = 0)

/-- Counter A: the first rising edge of the detector starts the count and fires nothing; after a rising edge, `a - 1` more
high ticks, `b` low ticks and a rising edge fire PCA_IRQ_ZC once, with `period = a + b` and `offset = a`, and restart the
count (42_phase_actuator.md R175; D24). Counter B, restarted by an edge, expires on the tick that is `b_load` ticks after
the edge's own and restarts Counter C (R169, R176; D20); Counter C alone has the period `c_reload + 1`, and in mode PHASE
the drive output is 1 for exactly its first `pca.width` ticks (R168, R170). -/
def Obligations.CountersFireOnTheirTick : Prop :=
  (∀ s : State, s.pca.irqEn = true → s.pca.aFirst = true → s.pca.aPrev = false →
    counterA true s = { s with pca.aFirst := false, pca.aCnt := 0, pca.aPrev := true }) ∧
  (∀ (s mid : State) (a b : Nat), s.pca.irqEn = true → s.pca.aFirst = false → s.pca.aCnt = 0 → s.pca.aPrev = true →
    0 < a → 0 < b → a + b < 2 ^ 16 →
    mid = repeatOp (counterA false) b (repeatOp (counterA true) (a - 1) s) →
    mid = { s with
      pca.aCnt := BitVec.ofNat 16 (a + b - 1), pca.aHigh := BitVec.ofNat 16 a, pca.aPrev := false } ∧
    ∃ u, exec (.pcaIrqZc (BitVec.ofNat 16 (a + b)) (BitVec.ofNat 16 a)) mid = .next u ∧
      counterA true mid = { u with pca.aCnt := 0, pca.aPrev := true }) ∧
  ∀ (s : State) (n : Nat),
    (s.pca.bRun = true → s.pca.bCnt = 0 →
      (n ≤ s.pca.bLoad.toNat →
        (repeatOp countersBC n s).pca.bRun = true ∧ (repeatOp countersBC n s).pca.bCnt.toNat = n) ∧
      (n = s.pca.bLoad.toNat + 1 →
        (repeatOp countersBC n s).pca.bRun = false ∧ (repeatOp countersBC n s).pca.cRun = true ∧
        (repeatOp countersBC n s).pca.cCnt = 0)) ∧
    (s.pca.bRun = false → s.pca.cRun = true → s.pca.cCnt = 0 → s.pca.bypass = false →
      (n ≤ s.pca.cReload.toNat →
        (repeatOp countersBC n s).pca.cCnt.toNat = n ∧
        pcaDrive (repeatOp countersBC n s) = decide (n < s.pca.width.toNat)) ∧
      (n = s.pca.cReload.toNat + 1 → (repeatOp countersBC n s).pca.cCnt = 0))

/-- The start pulse lasts exactly as many ticks as its timer holds: before that the line stays driven and the phase stays
START_PULSE, on that tick the line is released and the capture unit armed, whatever the pins do, provided the deadline is
later (41_sensor_decoder.md R135, R147, R151; D17, D20). -/
def Obligations.StartPulseLastsItsTimer : Prop :=
  ∀ (s : State) (ps : List (Bool × Bool × Bool)), s.swd.phase = .startPulse → s.swd.lineDrive = true →
    s.swd.irqEn = false → s.run.freshStart = false → s.run.freshRcv = false → s.swd.tWait = 0 →
    0 < ps.length → ps.length ≤ s.swd.tStart.toNat → s.swd.tStart.toNat < s.swd.tRcv.toNat →
    (ps.length < s.swd.tStart.toNat →
      (ticks ps s).swd = { s.swd with
        tStart := s.swd.tStart - BitVec.ofNat 16 ps.length, tRcv := s.swd.tRcv - BitVec.ofNat 32 ps.length }) ∧
    (ps.length = s.swd.tStart.toNat →
      (ticks ps s).swd.phase = .waitStart ∧ (ticks ps s).swd.lineDrive = false ∧ (ticks ps s).swd.irqEn = true ∧
      (ticks ps s).swd.tWait = s.conf.tWait ∧ (ticks ps s).cap.first = true ∧ (ticks ps s).cap.cnt = 0)

/-- When the served command's deadline passes on the tick on which the sequencer completes the exchange, the completion
wins; a sample that would not complete it is not consumed, and the exchange is cancelled as SWD_DEADLINE cancels it
(41_sensor_decoder.md R141, R151; D15, D40). -/
def Obligations.CompletionBeatsTheDeadline : Prop :=
  ∀ s t : State, s.swd.busy = true → Waiting s → s.swd.sig = true → exec .swdConsume s = .next t →
    (t.cli.done = true → deadlineTimer true true s = t) ∧
    (t.cli.done = false → exec .swdDeadline s = .next (deadlineTimer true true s) ∧
      (deadlineTimer true true s).swd.bit = s.swd.bit ∧ (deadlineTimer true true s).swd.buf = s.swd.buf)

/-! ### Reset and invariants -/

/-- The reset state (10_state.md R44, 70_reset_and_hazards.md R260; D39): everything is 0 but `pca.a_first = 1`, the phase
is IDLE, the table all 0, both outputs released; and the parameters have the values of 00_scope.md R6 and meet their bounds.
That the two strings start empty is log 2, as are the ports, the previous pin levels and the model's own record `run`; the
values of the OPEN parameters, the bounds `confOk` puts on FX_FRAC, and that a state carries its parameters, are log 3. -/
def Obligations.ResetStateIsAsSpecified : Prop :=
  State.reset.cmd = ⟨0, 0, 0, 0, 0, 0, 0, [], []⟩ ∧
  State.reset.swd =
    ⟨.idle, 0, false, false, false, false, 0, Vector.replicate 5 0, 0, 0, 0, 0, 0, 0⟩ ∧
  State.reset.cli = ⟨false, Vector.replicate 5 0, 0⟩ ∧
  State.reset.cap.cnt = 0 ∧ State.reset.cap.lowLatch = 0 ∧ State.reset.cap.first = false ∧
  State.reset.pca.table.all (· == 0) = true ∧ State.reset.pca.table.length = State.reset.conf.pcaMax + 1 ∧
  { State.reset.pca with table := [], aPrev := false } =
    ⟨0, 0, 0, false, 0, false, false, 0, 0, true, false, 0, 0, false, 0, 0, false, [], 0⟩ ∧
  State.reset.pid = ⟨0, 0, 0, 0, 0, 0, 0, 0, false⟩ ∧
  State.reset.loop = ⟨⟨0, 0, 0, 0, 0, 0, 0, false⟩, 0, 0, false, 0⟩ ∧ State.reset.cfgLock = false ∧
  pcaDrive State.reset = false ∧ linePin false State.reset = true ∧
  State.reset.conf = { State.reset.conf with
    fxW := 32, fxFrac := 16, fxFmtDigits := 3, capW := 16, tick := 1, tStart := 2000, tCapto := 320, tWait := 2000
    tRcv := 10000, vStartLow := 80, vStartHigh := 80, vBitLow := 50, vZeroHigh := 27, vOneHigh := 70, nBits := 40
    nBytes := 5, pcaShift := 16, pcaCntW := 16, tPcaRead := 100000, loopInputSel := .temperature } ∧
  confOk State.reset.conf = true

/-- The reset state of every configuration meets the three invariants (the decoder's where a packet has a bit, which
00_scope.md R6 says it has), and its lock wait is bounded. -/
def Obligations.ResetMeetsTheInvariants : Prop :=
  ∀ c : Config, (0 < c.nBits → SwdInv (State.resetWith c)) ∧ PcaInv (State.resetWith c) ∧
    LoopInv (State.resetWith c) ∧ LockWaitBounded (State.resetWith c)

/-- Every step keeps the decoder's invariants: 41_sensor_decoder.md R145 (1) to (5), who is blocked in an SWD_READ, and
which timers may run (R145 is derived there; that the bit count stays N_BITS after a completed exchange is log 16; its 40
is N_BITS). -/
def Obligations.StepKeepsTheDecoderInvariant : Prop :=
  ∀ s t : State, SwdInv s → step s = .next t → SwdInv t

/-- Every step keeps the actuator's invariants: the table in force is the configured one and meets R163, the phase entry
is a fraction, the width is 0 or PCA_PULSE_W, before PCA_INIT nothing runs, and the diagnostic window's timer runs only
while a PCA_READ is blocked (10_state.md R30, R36; 42_phase_actuator.md R162, R163, R165, R171; 70_reset_and_hazards.md
R265). -/
def Obligations.StepKeepsTheActuatorInvariant : Prop :=
  ∀ s t : State, PcaInv s → step s = .next t → PcaInv t

/-- Every step keeps the LOOP task's invariants: it has exactly one SWD_READ outstanding while it is blocked in one and
none otherwise, so that "at most one outstanding request" holds of it (44_control_loop.md R211); and its wait for the lock
stays bounded: the timer runs as long as it waits (60_exceptions.md R242, whatever T_LOCK is: log 29). The decoder's
invariants are a premise: they rule out states no run reaches. -/
def Obligations.StepKeepsTheLoopInvariant : Prop :=
  ∀ s t : State, SwdInv s → LoopInv s → step s = .next t → LoopInv t ∧ (LockWaitBounded s → LockWaitBounded t)

/-- An error is only reported (60_exceptions.md R225): a tick always has a next state; an issued command is refused only
for the reasons that 93_implementation_defined.md U1, U3, U4, U5 and U7 and 70_reset_and_hazards.md R276 name; after an
exchange that ended with any code the host's completion reports the code, and its next SWD_READ is accepted. And no step changes a parameter (00_scope.md R6). That a step which is not enabled is refused by
name is log 13, that nothing faults log 22, that the parameters are part of the state log 3. -/
def Obligations.ErrorsNeverHaltTheCore : Prop :=
  (∀ (s : State) (rest : List Input) (line zc consume : Bool), s.trace = .tick line zc consume :: rest →
    ∃ t, step s = .next t) ∧
  (∀ (s : State) (op : Byte) (rest : List Input) (r : Refusal), s.trace = .issue op :: rest → step s = .refused r →
    r ∈ [.timeoutNotPositive, .completionNotFresh, .pcaNotInitialised, .pcaAlreadyInitialised, .phaseTableIllFormed,
      .timestampBackwards, .loopTickOverlap]) ∧
  (∀ (s : State) (e : Byte) (timeout : Word), s.run.served = some .host → 0 < timeout.toInt →
    ∃ t u, runInput .swdReturn (endedWith e s) = .next t ∧ t.cmd.status = e ∧
      exec .swdRead { t with cmd.a0 := timeout } = .next u ∧ u.swd.phase = .startPulse ∧ u.run.served = some .host) ∧
  (∀ s t : State, step s = .next t → t.conf = s.conf)
end

