-- ==== Sys2Proof/Laws/State.lean ====
section
/-!
SUPPORT. What each field of State is after each named update, true by definition, for `simp`: one lemma per part of the
state per update, so that no later proof unfolds a record update.
-/
namespace Sys2Proof.Machine

/-! ### `putR0` -/

@[simp] theorem putR0_conf (v : Word) (s : State) : (putR0 v s).conf = s.conf := rfl
@[simp] theorem putR0_cmd (v : Word) (s : State) : (putR0 v s).cmd = { s.cmd with r0 := v } := rfl
@[simp] theorem putR0_swd (v : Word) (s : State) : (putR0 v s).swd = s.swd := rfl
@[simp] theorem putR0_cli (v : Word) (s : State) : (putR0 v s).cli = s.cli := rfl
@[simp] theorem putR0_cap (v : Word) (s : State) : (putR0 v s).cap = s.cap := rfl
@[simp] theorem putR0_pca (v : Word) (s : State) : (putR0 v s).pca = s.pca := rfl
@[simp] theorem putR0_pid (v : Word) (s : State) : (putR0 v s).pid = s.pid := rfl
@[simp] theorem putR0_loop (v : Word) (s : State) : (putR0 v s).loop = s.loop := rfl
@[simp] theorem putR0_cfgLock (v : Word) (s : State) : (putR0 v s).cfgLock = s.cfgLock := rfl
@[simp] theorem putR0_ext (v : Word) (s : State) : (putR0 v s).ext = s.ext := rfl
@[simp] theorem putR0_run (v : Word) (s : State) : (putR0 v s).run = s.run := rfl
@[simp] theorem putR0_trace (v : Word) (s : State) : (putR0 v s).trace = s.trace := rfl

/-! ### `putR1` -/

@[simp] theorem putR1_conf (v : Word) (s : State) : (putR1 v s).conf = s.conf := rfl
@[simp] theorem putR1_cmd (v : Word) (s : State) : (putR1 v s).cmd = { s.cmd with r1 := v } := rfl
@[simp] theorem putR1_swd (v : Word) (s : State) : (putR1 v s).swd = s.swd := rfl
@[simp] theorem putR1_cli (v : Word) (s : State) : (putR1 v s).cli = s.cli := rfl
@[simp] theorem putR1_cap (v : Word) (s : State) : (putR1 v s).cap = s.cap := rfl
@[simp] theorem putR1_pca (v : Word) (s : State) : (putR1 v s).pca = s.pca := rfl
@[simp] theorem putR1_pid (v : Word) (s : State) : (putR1 v s).pid = s.pid := rfl
@[simp] theorem putR1_loop (v : Word) (s : State) : (putR1 v s).loop = s.loop := rfl
@[simp] theorem putR1_cfgLock (v : Word) (s : State) : (putR1 v s).cfgLock = s.cfgLock := rfl
@[simp] theorem putR1_ext (v : Word) (s : State) : (putR1 v s).ext = s.ext := rfl
@[simp] theorem putR1_run (v : Word) (s : State) : (putR1 v s).run = s.run := rfl
@[simp] theorem putR1_trace (v : Word) (s : State) : (putR1 v s).trace = s.trace := rfl

/-! ### `putResult` -/

@[simp] theorem putResult_conf (v : Word) (s : State) : (putResult v s).conf = s.conf := rfl
@[simp] theorem putResult_cmd (v : Word) (s : State) :
    (putResult v s).cmd = { s.cmd with r0 := v, status := statusOk } := rfl
@[simp] theorem putResult_swd (v : Word) (s : State) : (putResult v s).swd = s.swd := rfl
@[simp] theorem putResult_cli (v : Word) (s : State) : (putResult v s).cli = s.cli := rfl
@[simp] theorem putResult_cap (v : Word) (s : State) : (putResult v s).cap = s.cap := rfl
@[simp] theorem putResult_pca (v : Word) (s : State) : (putResult v s).pca = s.pca := rfl
@[simp] theorem putResult_pid (v : Word) (s : State) : (putResult v s).pid = s.pid := rfl
@[simp] theorem putResult_loop (v : Word) (s : State) : (putResult v s).loop = s.loop := rfl
@[simp] theorem putResult_cfgLock (v : Word) (s : State) : (putResult v s).cfgLock = s.cfgLock := rfl
@[simp] theorem putResult_ext (v : Word) (s : State) : (putResult v s).ext = s.ext := rfl
@[simp] theorem putResult_run (v : Word) (s : State) : (putResult v s).run = s.run := rfl
@[simp] theorem putResult_trace (v : Word) (s : State) : (putResult v s).trace = s.trace := rfl

/-! ### `putStatus` -/

@[simp] theorem putStatus_conf (v : Byte) (s : State) : (putStatus v s).conf = s.conf := rfl
@[simp] theorem putStatus_cmd (v : Byte) (s : State) : (putStatus v s).cmd = { s.cmd with status := v } := rfl
@[simp] theorem putStatus_swd (v : Byte) (s : State) : (putStatus v s).swd = s.swd := rfl
@[simp] theorem putStatus_cli (v : Byte) (s : State) : (putStatus v s).cli = s.cli := rfl
@[simp] theorem putStatus_cap (v : Byte) (s : State) : (putStatus v s).cap = s.cap := rfl
@[simp] theorem putStatus_pca (v : Byte) (s : State) : (putStatus v s).pca = s.pca := rfl
@[simp] theorem putStatus_pid (v : Byte) (s : State) : (putStatus v s).pid = s.pid := rfl
@[simp] theorem putStatus_loop (v : Byte) (s : State) : (putStatus v s).loop = s.loop := rfl
@[simp] theorem putStatus_cfgLock (v : Byte) (s : State) : (putStatus v s).cfgLock = s.cfgLock := rfl
@[simp] theorem putStatus_ext (v : Byte) (s : State) : (putStatus v s).ext = s.ext := rfl
@[simp] theorem putStatus_run (v : Byte) (s : State) : (putStatus v s).run = s.run := rfl
@[simp] theorem putStatus_trace (v : Byte) (s : State) : (putStatus v s).trace = s.trace := rfl

/-! ### `putString` -/

@[simp] theorem putString_conf (cs : List Char) (s : State) : (putString cs s).conf = s.conf := rfl
@[simp] theorem putString_cmd (cs : List Char) (s : State) : (putString cs s).cmd = { s.cmd with strOut := cs } := rfl
@[simp] theorem putString_swd (cs : List Char) (s : State) : (putString cs s).swd = s.swd := rfl
@[simp] theorem putString_cli (cs : List Char) (s : State) : (putString cs s).cli = s.cli := rfl
@[simp] theorem putString_cap (cs : List Char) (s : State) : (putString cs s).cap = s.cap := rfl
@[simp] theorem putString_pca (cs : List Char) (s : State) : (putString cs s).pca = s.pca := rfl
@[simp] theorem putString_pid (cs : List Char) (s : State) : (putString cs s).pid = s.pid := rfl
@[simp] theorem putString_loop (cs : List Char) (s : State) : (putString cs s).loop = s.loop := rfl
@[simp] theorem putString_cfgLock (cs : List Char) (s : State) : (putString cs s).cfgLock = s.cfgLock := rfl
@[simp] theorem putString_ext (cs : List Char) (s : State) : (putString cs s).ext = s.ext := rfl
@[simp] theorem putString_run (cs : List Char) (s : State) : (putString cs s).run = s.run := rfl
@[simp] theorem putString_trace (cs : List Char) (s : State) : (putString cs s).trace = s.trace := rfl

/-! ### `storeSample` -/

@[simp] theorem storeSample_conf (w : Word) (s : State) : (storeSample w s).conf = s.conf := rfl
@[simp] theorem storeSample_cmd (w : Word) (s : State) : (storeSample w s).cmd = s.cmd := rfl
@[simp] theorem storeSample_swd (w : Word) (s : State) :
    (storeSample w s).swd = { s.swd with sample := w, sig := true } := rfl
@[simp] theorem storeSample_cli (w : Word) (s : State) : (storeSample w s).cli = s.cli := rfl
@[simp] theorem storeSample_cap (w : Word) (s : State) : (storeSample w s).cap = s.cap := rfl
@[simp] theorem storeSample_pca (w : Word) (s : State) : (storeSample w s).pca = s.pca := rfl
@[simp] theorem storeSample_pid (w : Word) (s : State) : (storeSample w s).pid = s.pid := rfl
@[simp] theorem storeSample_loop (w : Word) (s : State) : (storeSample w s).loop = s.loop := rfl
@[simp] theorem storeSample_cfgLock (w : Word) (s : State) : (storeSample w s).cfgLock = s.cfgLock := rfl
@[simp] theorem storeSample_ext (w : Word) (s : State) : (storeSample w s).ext = s.ext := rfl
@[simp] theorem storeSample_run (w : Word) (s : State) : (storeSample w s).run = s.run := rfl
@[simp] theorem storeSample_trace (w : Word) (s : State) : (storeSample w s).trace = s.trace := rfl

/-! ### `swdFinish` -/

@[simp] theorem swdFinish_conf (e : Byte) (s : State) : (swdFinish e s).conf = s.conf := rfl
@[simp] theorem swdFinish_cmd (e : Byte) (s : State) : (swdFinish e s).cmd = s.cmd := rfl
@[simp] theorem swdFinish_swd (e : Byte) (s : State) :
    (swdFinish e s).swd = { s.swd with
      irqEn := false, sig := false, tWait := 0, tStart := 0, tRcv := 0, phase := .idle, busy := false } := rfl
@[simp] theorem swdFinish_cli (e : Byte) (s : State) :
    (swdFinish e s).cli = { s.cli with done := true, buf := s.swd.buf, err := e } := rfl
@[simp] theorem swdFinish_cap (e : Byte) (s : State) : (swdFinish e s).cap = s.cap := rfl
@[simp] theorem swdFinish_pca (e : Byte) (s : State) : (swdFinish e s).pca = s.pca := rfl
@[simp] theorem swdFinish_pid (e : Byte) (s : State) : (swdFinish e s).pid = s.pid := rfl
@[simp] theorem swdFinish_loop (e : Byte) (s : State) : (swdFinish e s).loop = s.loop := rfl
@[simp] theorem swdFinish_cfgLock (e : Byte) (s : State) : (swdFinish e s).cfgLock = s.cfgLock := rfl
@[simp] theorem swdFinish_ext (e : Byte) (s : State) : (swdFinish e s).ext = s.ext := rfl
@[simp] theorem swdFinish_run (e : Byte) (s : State) : (swdFinish e s).run = s.run := rfl
@[simp] theorem swdFinish_trace (e : Byte) (s : State) : (swdFinish e s).trace = s.trace := rfl

/-! ### `acceptRead` -/

@[simp] theorem acceptRead_conf (c : Caller) (timeout : Word) (s : State) :
    (acceptRead c timeout s).conf = s.conf := rfl
@[simp] theorem acceptRead_cmd (c : Caller) (timeout : Word) (s : State) : (acceptRead c timeout s).cmd = s.cmd := rfl
@[simp] theorem acceptRead_swd (c : Caller) (timeout : Word) (s : State) :
    (acceptRead c timeout s).swd = { s.swd with
      busy := true, gen := s.swd.gen + 1, buf := Packet.zero, bit := 0, lineDrive := true
      phase := .startPulse, tStart := s.conf.tStart, tRcv := timeout } := rfl
@[simp] theorem acceptRead_cli (c : Caller) (timeout : Word) (s : State) :
    (acceptRead c timeout s).cli = { s.cli with err := 0 } := rfl
@[simp] theorem acceptRead_cap (c : Caller) (timeout : Word) (s : State) : (acceptRead c timeout s).cap = s.cap := rfl
@[simp] theorem acceptRead_pca (c : Caller) (timeout : Word) (s : State) : (acceptRead c timeout s).pca = s.pca := rfl
@[simp] theorem acceptRead_pid (c : Caller) (timeout : Word) (s : State) : (acceptRead c timeout s).pid = s.pid := rfl
@[simp] theorem acceptRead_loop (c : Caller) (timeout : Word) (s : State) :
    (acceptRead c timeout s).loop = s.loop := rfl
@[simp] theorem acceptRead_cfgLock (c : Caller) (timeout : Word) (s : State) :
    (acceptRead c timeout s).cfgLock = s.cfgLock := rfl
@[simp] theorem acceptRead_ext (c : Caller) (timeout : Word) (s : State) : (acceptRead c timeout s).ext = s.ext := rfl
@[simp] theorem acceptRead_run (c : Caller) (timeout : Word) (s : State) :
    (acceptRead c timeout s).run = { s.run with served := some c } := rfl
@[simp] theorem acceptRead_trace (c : Caller) (timeout : Word) (s : State) :
    (acceptRead c timeout s).trace = s.trace := rfl

/-! ### `acceptHeld` -/

@[simp] theorem acceptHeld_conf (h : Held) (rest : List Held) (s : State) : (acceptHeld h rest s).conf = s.conf := rfl
@[simp] theorem acceptHeld_cmd (h : Held) (rest : List Held) (s : State) : (acceptHeld h rest s).cmd = s.cmd := rfl
@[simp] theorem acceptHeld_swd (h : Held) (rest : List Held) (s : State) :
    (acceptHeld h rest s).swd = { s.swd with
      busy := true, gen := s.swd.gen + 1, buf := Packet.zero, bit := 0, lineDrive := true
      phase := .startPulse, tStart := s.conf.tStart, tRcv := h.left } := rfl
@[simp] theorem acceptHeld_cli (h : Held) (rest : List Held) (s : State) :
    (acceptHeld h rest s).cli = { s.cli with err := 0 } := rfl
@[simp] theorem acceptHeld_cap (h : Held) (rest : List Held) (s : State) : (acceptHeld h rest s).cap = s.cap := rfl
@[simp] theorem acceptHeld_pca (h : Held) (rest : List Held) (s : State) : (acceptHeld h rest s).pca = s.pca := rfl
@[simp] theorem acceptHeld_pid (h : Held) (rest : List Held) (s : State) : (acceptHeld h rest s).pid = s.pid := rfl
@[simp] theorem acceptHeld_loop (h : Held) (rest : List Held) (s : State) : (acceptHeld h rest s).loop = s.loop := rfl
@[simp] theorem acceptHeld_cfgLock (h : Held) (rest : List Held) (s : State) :
    (acceptHeld h rest s).cfgLock = s.cfgLock := rfl
@[simp] theorem acceptHeld_ext (h : Held) (rest : List Held) (s : State) : (acceptHeld h rest s).ext = s.ext := rfl
@[simp] theorem acceptHeld_run (h : Held) (rest : List Held) (s : State) :
    (acceptHeld h rest s).run = { s.run with
      served := some h.caller, held := rest, freshStart := false, freshRcv := h.fresh } := rfl
@[simp] theorem acceptHeld_trace (h : Held) (rest : List Held) (s : State) :
    (acceptHeld h rest s).trace = s.trace := rfl

/-! ### `cancelServed` -/

@[simp] theorem cancelServed_conf (s : State) : (cancelServed s).conf = s.conf := rfl
@[simp] theorem cancelServed_cmd (s : State) : (cancelServed s).cmd = { s.cmd with status := statusRcvTimeout } := rfl
@[simp] theorem cancelServed_swd (s : State) :
    (cancelServed s).swd = { s.swd with
      irqEn := false, sig := false, lineDrive := false, tWait := 0, tStart := 0, tRcv := 0, phase := .idle
      busy := false } := rfl
@[simp] theorem cancelServed_cli (s : State) : (cancelServed s).cli = { s.cli with err := statusRcvTimeout } := rfl
@[simp] theorem cancelServed_cap (s : State) : (cancelServed s).cap = s.cap := rfl
@[simp] theorem cancelServed_pca (s : State) : (cancelServed s).pca = s.pca := rfl
@[simp] theorem cancelServed_pid (s : State) : (cancelServed s).pid = s.pid := rfl
@[simp] theorem cancelServed_loop (s : State) : (cancelServed s).loop = s.loop := rfl
@[simp] theorem cancelServed_cfgLock (s : State) : (cancelServed s).cfgLock = s.cfgLock := rfl
@[simp] theorem cancelServed_ext (s : State) : (cancelServed s).ext = s.ext := rfl
@[simp] theorem cancelServed_run (s : State) :
    (cancelServed s).run = { s.run with
      stage := deadlineStage (s.run.served.getD .host) s.run.stage, served := none } := rfl
@[simp] theorem cancelServed_trace (s : State) : (cancelServed s).trace = s.trace := rfl

/-! ### `cancelHeld` -/

@[simp] theorem cancelHeld_conf (h : Held) (rest : List Held) (s : State) : (cancelHeld h rest s).conf = s.conf := rfl
@[simp] theorem cancelHeld_cmd (h : Held) (rest : List Held) (s : State) :
    (cancelHeld h rest s).cmd = { s.cmd with status := statusRcvTimeout } := rfl
@[simp] theorem cancelHeld_swd (h : Held) (rest : List Held) (s : State) : (cancelHeld h rest s).swd = s.swd := rfl
@[simp] theorem cancelHeld_cli (h : Held) (rest : List Held) (s : State) :
    (cancelHeld h rest s).cli = { s.cli with err := statusRcvTimeout } := rfl
@[simp] theorem cancelHeld_cap (h : Held) (rest : List Held) (s : State) : (cancelHeld h rest s).cap = s.cap := rfl
@[simp] theorem cancelHeld_pca (h : Held) (rest : List Held) (s : State) : (cancelHeld h rest s).pca = s.pca := rfl
@[simp] theorem cancelHeld_pid (h : Held) (rest : List Held) (s : State) : (cancelHeld h rest s).pid = s.pid := rfl
@[simp] theorem cancelHeld_loop (h : Held) (rest : List Held) (s : State) : (cancelHeld h rest s).loop = s.loop := rfl
@[simp] theorem cancelHeld_cfgLock (h : Held) (rest : List Held) (s : State) :
    (cancelHeld h rest s).cfgLock = s.cfgLock := rfl
@[simp] theorem cancelHeld_ext (h : Held) (rest : List Held) (s : State) : (cancelHeld h rest s).ext = s.ext := rfl
@[simp] theorem cancelHeld_run (h : Held) (rest : List Held) (s : State) :
    (cancelHeld h rest s).run = { s.run with held := rest, stage := deadlineStage h.caller s.run.stage } := rfl
@[simp] theorem cancelHeld_trace (h : Held) (rest : List Held) (s : State) :
    (cancelHeld h rest s).trace = s.trace := rfl

/-! ### `startDone` -/

@[simp] theorem startDone_conf (s : State) : (startDone s).conf = s.conf := rfl
@[simp] theorem startDone_cmd (s : State) : (startDone s).cmd = s.cmd := rfl
@[simp] theorem startDone_swd (s : State) :
    (startDone s).swd = { s.swd with
      lineDrive := false, sig := false, irqEn := true, phase := .waitStart, tWait := s.conf.tWait } := rfl
@[simp] theorem startDone_cli (s : State) : (startDone s).cli = s.cli := rfl
@[simp] theorem startDone_cap (s : State) :
    (startDone s).cap = { s.cap with first := true, cnt := 0, lowLatch := 0 } := rfl
@[simp] theorem startDone_pca (s : State) : (startDone s).pca = s.pca := rfl
@[simp] theorem startDone_pid (s : State) : (startDone s).pid = s.pid := rfl
@[simp] theorem startDone_loop (s : State) : (startDone s).loop = s.loop := rfl
@[simp] theorem startDone_cfgLock (s : State) : (startDone s).cfgLock = s.cfgLock := rfl
@[simp] theorem startDone_ext (s : State) : (startDone s).ext = s.ext := rfl
@[simp] theorem startDone_run (s : State) : (startDone s).run = s.run := rfl
@[simp] theorem startDone_trace (s : State) : (startDone s).trace = s.trace := rfl

/-! ### `takeStart` -/

@[simp] theorem takeStart_conf (s : State) : (takeStart s).conf = s.conf := rfl
@[simp] theorem takeStart_cmd (s : State) : (takeStart s).cmd = s.cmd := rfl
@[simp] theorem takeStart_swd (s : State) :
    (takeStart s).swd = { s.swd with phase := .waitBit, bit := 0, tWait := s.conf.tWait } := rfl
@[simp] theorem takeStart_cli (s : State) : (takeStart s).cli = s.cli := rfl
@[simp] theorem takeStart_cap (s : State) : (takeStart s).cap = s.cap := rfl
@[simp] theorem takeStart_pca (s : State) : (takeStart s).pca = s.pca := rfl
@[simp] theorem takeStart_pid (s : State) : (takeStart s).pid = s.pid := rfl
@[simp] theorem takeStart_loop (s : State) : (takeStart s).loop = s.loop := rfl
@[simp] theorem takeStart_cfgLock (s : State) : (takeStart s).cfgLock = s.cfgLock := rfl
@[simp] theorem takeStart_ext (s : State) : (takeStart s).ext = s.ext := rfl
@[simp] theorem takeStart_run (s : State) : (takeStart s).run = s.run := rfl
@[simp] theorem takeStart_trace (s : State) : (takeStart s).trace = s.trace := rfl

/-! ### `zeroCrossing` -/

@[simp] theorem zeroCrossing_conf (p q : Half) (s : State) : (zeroCrossing p q s).conf = s.conf := rfl
@[simp] theorem zeroCrossing_cmd (p q : Half) (s : State) : (zeroCrossing p q s).cmd = s.cmd := rfl
@[simp] theorem zeroCrossing_swd (p q : Half) (s : State) : (zeroCrossing p q s).swd = s.swd := rfl
@[simp] theorem zeroCrossing_cli (p q : Half) (s : State) : (zeroCrossing p q s).cli = s.cli := rfl
@[simp] theorem zeroCrossing_cap (p q : Half) (s : State) : (zeroCrossing p q s).cap = s.cap := rfl
@[simp] theorem zeroCrossing_pca (p q : Half) (s : State) :
    (zeroCrossing p q s).pca = { s.pca with
      sample := packSample p q, sig := true, cReload := wrap16 (halfPeriod p - 1)
      bLoad := wrap16 (phaseDelay s.conf.pcaShift s.pca.phaseEntry p q), bCnt := 0, bRun := true } := rfl
@[simp] theorem zeroCrossing_pid (p q : Half) (s : State) : (zeroCrossing p q s).pid = s.pid := rfl
@[simp] theorem zeroCrossing_loop (p q : Half) (s : State) : (zeroCrossing p q s).loop = s.loop := rfl
@[simp] theorem zeroCrossing_cfgLock (p q : Half) (s : State) : (zeroCrossing p q s).cfgLock = s.cfgLock := rfl
@[simp] theorem zeroCrossing_ext (p q : Half) (s : State) : (zeroCrossing p q s).ext = s.ext := rfl
@[simp] theorem zeroCrossing_run (p q : Half) (s : State) : (zeroCrossing p q s).run = s.run := rfl
@[simp] theorem zeroCrossing_trace (p q : Half) (s : State) : (zeroCrossing p q s).trace = s.trace := rfl

/-! ### `bExpire` -/

@[simp] theorem bExpire_conf (s : State) : (bExpire s).conf = s.conf := rfl
@[simp] theorem bExpire_cmd (s : State) : (bExpire s).cmd = s.cmd := rfl
@[simp] theorem bExpire_swd (s : State) : (bExpire s).swd = s.swd := rfl
@[simp] theorem bExpire_cli (s : State) : (bExpire s).cli = s.cli := rfl
@[simp] theorem bExpire_cap (s : State) : (bExpire s).cap = s.cap := rfl
@[simp] theorem bExpire_pca (s : State) :
    (bExpire s).pca = { s.pca with bRun := false, cCnt := 0, cRun := true } := rfl
@[simp] theorem bExpire_pid (s : State) : (bExpire s).pid = s.pid := rfl
@[simp] theorem bExpire_loop (s : State) : (bExpire s).loop = s.loop := rfl
@[simp] theorem bExpire_cfgLock (s : State) : (bExpire s).cfgLock = s.cfgLock := rfl
@[simp] theorem bExpire_ext (s : State) : (bExpire s).ext = s.ext := rfl
@[simp] theorem bExpire_run (s : State) : (bExpire s).run = s.run := rfl
@[simp] theorem bExpire_trace (s : State) : (bExpire s).trace = s.trace := rfl

/-! ### `cReload` -/

@[simp] theorem cReload_conf (s : State) : (cReload s).conf = s.conf := rfl
@[simp] theorem cReload_cmd (s : State) : (cReload s).cmd = s.cmd := rfl
@[simp] theorem cReload_swd (s : State) : (cReload s).swd = s.swd := rfl
@[simp] theorem cReload_cli (s : State) : (cReload s).cli = s.cli := rfl
@[simp] theorem cReload_cap (s : State) : (cReload s).cap = s.cap := rfl
@[simp] theorem cReload_pca (s : State) : (cReload s).pca = { s.pca with cCnt := 0 } := rfl
@[simp] theorem cReload_pid (s : State) : (cReload s).pid = s.pid := rfl
@[simp] theorem cReload_loop (s : State) : (cReload s).loop = s.loop := rfl
@[simp] theorem cReload_cfgLock (s : State) : (cReload s).cfgLock = s.cfgLock := rfl
@[simp] theorem cReload_ext (s : State) : (cReload s).ext = s.ext := rfl
@[simp] theorem cReload_run (s : State) : (cReload s).run = s.run := rfl
@[simp] theorem cReload_trace (s : State) : (cReload s).trace = s.trace := rfl

/-! ### `completeRead` -/

@[simp] theorem completeRead_conf (s : State) : (completeRead s).conf = s.conf := rfl
@[simp] theorem completeRead_cmd (s : State) :
    (completeRead s).cmd = { s.cmd with
      r0 := zext32 (samplePeriod s.pca.sample), r1 := zext32 (sampleSecond s.pca.sample), status := statusOk } := rfl
@[simp] theorem completeRead_swd (s : State) : (completeRead s).swd = s.swd := rfl
@[simp] theorem completeRead_cli (s : State) : (completeRead s).cli = s.cli := rfl
@[simp] theorem completeRead_cap (s : State) : (completeRead s).cap = s.cap := rfl
@[simp] theorem completeRead_pca (s : State) : (completeRead s).pca = { s.pca with sig := false, tRead := 0 } := rfl
@[simp] theorem completeRead_pid (s : State) : (completeRead s).pid = s.pid := rfl
@[simp] theorem completeRead_loop (s : State) : (completeRead s).loop = s.loop := rfl
@[simp] theorem completeRead_cfgLock (s : State) : (completeRead s).cfgLock = s.cfgLock := rfl
@[simp] theorem completeRead_ext (s : State) : (completeRead s).ext = s.ext := rfl
@[simp] theorem completeRead_run (s : State) : (completeRead s).run = { s.run with pcaReadBlocked := false } := rfl
@[simp] theorem completeRead_trace (s : State) : (completeRead s).trace = s.trace := rfl

/-! ### `readExpires` -/

@[simp] theorem readExpires_conf (s : State) : (readExpires s).conf = s.conf := rfl
@[simp] theorem readExpires_cmd (s : State) : (readExpires s).cmd = { s.cmd with status := statusNoSignal } := rfl
@[simp] theorem readExpires_swd (s : State) : (readExpires s).swd = s.swd := rfl
@[simp] theorem readExpires_cli (s : State) : (readExpires s).cli = s.cli := rfl
@[simp] theorem readExpires_cap (s : State) : (readExpires s).cap = s.cap := rfl
@[simp] theorem readExpires_pca (s : State) : (readExpires s).pca = { s.pca with tRead := 0 } := rfl
@[simp] theorem readExpires_pid (s : State) : (readExpires s).pid = s.pid := rfl
@[simp] theorem readExpires_loop (s : State) : (readExpires s).loop = s.loop := rfl
@[simp] theorem readExpires_cfgLock (s : State) : (readExpires s).cfgLock = s.cfgLock := rfl
@[simp] theorem readExpires_ext (s : State) : (readExpires s).ext = s.ext := rfl
@[simp] theorem readExpires_run (s : State) : (readExpires s).run = { s.run with pcaReadBlocked := false } := rfl
@[simp] theorem readExpires_trace (s : State) : (readExpires s).trace = s.trace := rfl

/-! ### `setCoef` -/

@[simp] theorem setCoef_conf (kp ki kd : Word) (s : State) : (setCoef kp ki kd s).conf = s.conf := rfl
@[simp] theorem setCoef_cmd (kp ki kd : Word) (s : State) :
    (setCoef kp ki kd s).cmd = { s.cmd with status := statusOk } := rfl
@[simp] theorem setCoef_swd (kp ki kd : Word) (s : State) : (setCoef kp ki kd s).swd = s.swd := rfl
@[simp] theorem setCoef_cli (kp ki kd : Word) (s : State) : (setCoef kp ki kd s).cli = s.cli := rfl
@[simp] theorem setCoef_cap (kp ki kd : Word) (s : State) : (setCoef kp ki kd s).cap = s.cap := rfl
@[simp] theorem setCoef_pca (kp ki kd : Word) (s : State) : (setCoef kp ki kd s).pca = s.pca := rfl
@[simp] theorem setCoef_pid (kp ki kd : Word) (s : State) :
    (setCoef kp ki kd s).pid = { s.pid with kp := kp, ki := ki, kd := kd } := rfl
@[simp] theorem setCoef_loop (kp ki kd : Word) (s : State) : (setCoef kp ki kd s).loop = s.loop := rfl
@[simp] theorem setCoef_cfgLock (kp ki kd : Word) (s : State) : (setCoef kp ki kd s).cfgLock = s.cfgLock := rfl
@[simp] theorem setCoef_ext (kp ki kd : Word) (s : State) : (setCoef kp ki kd s).ext = s.ext := rfl
@[simp] theorem setCoef_run (kp ki kd : Word) (s : State) : (setCoef kp ki kd s).run = s.run := rfl
@[simp] theorem setCoef_trace (kp ki kd : Word) (s : State) : (setCoef kp ki kd s).trace = s.trace := rfl

/-! ### `setLimits` -/

@[simp] theorem setLimits_conf (lo hi : Word) (s : State) : (setLimits lo hi s).conf = s.conf := rfl
@[simp] theorem setLimits_cmd (lo hi : Word) (s : State) :
    (setLimits lo hi s).cmd = { s.cmd with status := statusOk } := rfl
@[simp] theorem setLimits_swd (lo hi : Word) (s : State) : (setLimits lo hi s).swd = s.swd := rfl
@[simp] theorem setLimits_cli (lo hi : Word) (s : State) : (setLimits lo hi s).cli = s.cli := rfl
@[simp] theorem setLimits_cap (lo hi : Word) (s : State) : (setLimits lo hi s).cap = s.cap := rfl
@[simp] theorem setLimits_pca (lo hi : Word) (s : State) : (setLimits lo hi s).pca = s.pca := rfl
@[simp] theorem setLimits_pid (lo hi : Word) (s : State) :
    (setLimits lo hi s).pid = { s.pid with
      low := lo, high := hi
      integral := wrap32 (pidReclamp s.conf.fxFrac { s.pid with low := lo, high := hi } s.pid.integral.toInt) } := rfl
@[simp] theorem setLimits_loop (lo hi : Word) (s : State) : (setLimits lo hi s).loop = s.loop := rfl
@[simp] theorem setLimits_cfgLock (lo hi : Word) (s : State) : (setLimits lo hi s).cfgLock = s.cfgLock := rfl
@[simp] theorem setLimits_ext (lo hi : Word) (s : State) : (setLimits lo hi s).ext = s.ext := rfl
@[simp] theorem setLimits_run (lo hi : Word) (s : State) : (setLimits lo hi s).run = s.run := rfl
@[simp] theorem setLimits_trace (lo hi : Word) (s : State) : (setLimits lo hi s).trace = s.trace := rfl

/-! ### `lockAcquired` -/

@[simp] theorem lockAcquired_conf (s : State) : (lockAcquired s).conf = s.conf := rfl
@[simp] theorem lockAcquired_cmd (s : State) : (lockAcquired s).cmd = s.cmd := rfl
@[simp] theorem lockAcquired_swd (s : State) : (lockAcquired s).swd = s.swd := rfl
@[simp] theorem lockAcquired_cli (s : State) : (lockAcquired s).cli = s.cli := rfl
@[simp] theorem lockAcquired_cap (s : State) : (lockAcquired s).cap = s.cap := rfl
@[simp] theorem lockAcquired_pca (s : State) : (lockAcquired s).pca = s.pca := rfl
@[simp] theorem lockAcquired_pid (s : State) : (lockAcquired s).pid = s.pid := rfl
@[simp] theorem lockAcquired_loop (s : State) : (lockAcquired s).loop = s.loop := rfl
@[simp] theorem lockAcquired_cfgLock (s : State) : (lockAcquired s).cfgLock = true := rfl
@[simp] theorem lockAcquired_ext (s : State) : (lockAcquired s).ext = s.ext := rfl
@[simp] theorem lockAcquired_run (s : State) :
    (lockAcquired s).run = { s.run with stage := .snapshot, tLock := 0 } := rfl
@[simp] theorem lockAcquired_trace (s : State) : (lockAcquired s).trace = s.trace := rfl

/-! ### `skipConfig` -/

@[simp] theorem skipConfig_conf (s : State) : (skipConfig s).conf = s.conf := rfl
@[simp] theorem skipConfig_cmd (s : State) : (skipConfig s).cmd = s.cmd := rfl
@[simp] theorem skipConfig_swd (s : State) : (skipConfig s).swd = s.swd := rfl
@[simp] theorem skipConfig_cli (s : State) : (skipConfig s).cli = s.cli := rfl
@[simp] theorem skipConfig_cap (s : State) : (skipConfig s).cap = s.cap := rfl
@[simp] theorem skipConfig_pca (s : State) : (skipConfig s).pca = s.pca := rfl
@[simp] theorem skipConfig_pid (s : State) : (skipConfig s).pid = s.pid := rfl
@[simp] theorem skipConfig_loop (s : State) : (skipConfig s).loop = s.loop := rfl
@[simp] theorem skipConfig_cfgLock (s : State) : (skipConfig s).cfgLock = s.cfgLock := rfl
@[simp] theorem skipConfig_ext (s : State) : (skipConfig s).ext = s.ext := rfl
@[simp] theorem skipConfig_run (s : State) : (skipConfig s).run = { s.run with stage := .read, tLock := 0 } := rfl
@[simp] theorem skipConfig_trace (s : State) : (skipConfig s).trace = s.trace := rfl

/-! ### `countTimers` -/

@[simp] theorem countTimers_conf (s : State) : (countTimers s).conf = s.conf := rfl
@[simp] theorem countTimers_cmd (s : State) : (countTimers s).cmd = s.cmd := rfl
@[simp] theorem countTimers_swd (s : State) :
    (countTimers s).swd = { s.swd with
      tStart := countDown s.run.freshStart s.swd.tStart, tWait := countDown false s.swd.tWait
      tRcv := countDown s.run.freshRcv s.swd.tRcv } := rfl
@[simp] theorem countTimers_cli (s : State) : (countTimers s).cli = s.cli := rfl
@[simp] theorem countTimers_cap (s : State) : (countTimers s).cap = s.cap := rfl
@[simp] theorem countTimers_pca (s : State) :
    (countTimers s).pca = { s.pca with tRead := countDown s.run.freshRead s.pca.tRead } := rfl
@[simp] theorem countTimers_pid (s : State) : (countTimers s).pid = s.pid := rfl
@[simp] theorem countTimers_loop (s : State) : (countTimers s).loop = s.loop := rfl
@[simp] theorem countTimers_cfgLock (s : State) : (countTimers s).cfgLock = s.cfgLock := rfl
@[simp] theorem countTimers_ext (s : State) : (countTimers s).ext = s.ext := rfl
@[simp] theorem countTimers_run (s : State) :
    (countTimers s).run = { s.run with
      tLock := countLock s.run.freshLock s.run.tLock, held := s.run.held.map Held.count, freshStart := false
      freshRcv := false, freshRead := false, freshLock := false } := rfl
@[simp] theorem countTimers_trace (s : State) : (countTimers s).trace = s.trace := rfl

end Sys2Proof.Machine
end

