-- ==== Sys2Proof/Laws/Frame.lean ====
section
/-!
SUPPORT. What each operation with cases leaves unchanged, for `simp`: one lemma per unchanged part of the state, so that
a claim about one unit passes through the others' operations.
-/
namespace Sys2Proof.Machine

/-! ### `captureEdge` -/

@[simp] theorem captureEdge_conf (line : Bool) (n : Half) (s : State) : (captureEdge line n s).conf = s.conf := by
  unfold captureEdge; split_ifs <;> rfl
@[simp] theorem captureEdge_cmd (line : Bool) (n : Half) (s : State) : (captureEdge line n s).cmd = s.cmd := by
  unfold captureEdge; split_ifs <;> rfl
@[simp] theorem captureEdge_cli (line : Bool) (n : Half) (s : State) : (captureEdge line n s).cli = s.cli := by
  unfold captureEdge; split_ifs <;> rfl
@[simp] theorem captureEdge_pca (line : Bool) (n : Half) (s : State) : (captureEdge line n s).pca = s.pca := by
  unfold captureEdge; split_ifs <;> rfl
@[simp] theorem captureEdge_pid (line : Bool) (n : Half) (s : State) : (captureEdge line n s).pid = s.pid := by
  unfold captureEdge; split_ifs <;> rfl
@[simp] theorem captureEdge_loop (line : Bool) (n : Half) (s : State) : (captureEdge line n s).loop = s.loop := by
  unfold captureEdge; split_ifs <;> rfl
@[simp] theorem captureEdge_cfgLock (line : Bool) (n : Half) (s : State) : (captureEdge line n s).cfgLock = s.cfgLock := by
  unfold captureEdge; split_ifs <;> rfl
@[simp] theorem captureEdge_ext (line : Bool) (n : Half) (s : State) : (captureEdge line n s).ext = s.ext := by
  unfold captureEdge; split_ifs <;> rfl
@[simp] theorem captureEdge_run (line : Bool) (n : Half) (s : State) : (captureEdge line n s).run = s.run := by
  unfold captureEdge; split_ifs <;> rfl
@[simp] theorem captureEdge_trace (line : Bool) (n : Half) (s : State) : (captureEdge line n s).trace = s.trace := by
  unfold captureEdge; split_ifs <;> rfl

/-! ### `captureTimeout` -/

@[simp] theorem captureTimeout_conf (s : State) : (captureTimeout s).conf = s.conf := by
  unfold captureTimeout; split_ifs <;> rfl
@[simp] theorem captureTimeout_cmd (s : State) : (captureTimeout s).cmd = s.cmd := by
  unfold captureTimeout; split_ifs <;> rfl
@[simp] theorem captureTimeout_cli (s : State) : (captureTimeout s).cli = s.cli := by
  unfold captureTimeout; split_ifs <;> rfl
@[simp] theorem captureTimeout_pca (s : State) : (captureTimeout s).pca = s.pca := by
  unfold captureTimeout; split_ifs <;> rfl
@[simp] theorem captureTimeout_pid (s : State) : (captureTimeout s).pid = s.pid := by
  unfold captureTimeout; split_ifs <;> rfl
@[simp] theorem captureTimeout_loop (s : State) : (captureTimeout s).loop = s.loop := by
  unfold captureTimeout; split_ifs <;> rfl
@[simp] theorem captureTimeout_cfgLock (s : State) : (captureTimeout s).cfgLock = s.cfgLock := by
  unfold captureTimeout; split_ifs <;> rfl
@[simp] theorem captureTimeout_ext (s : State) : (captureTimeout s).ext = s.ext := by
  unfold captureTimeout; split_ifs <;> rfl
@[simp] theorem captureTimeout_run (s : State) : (captureTimeout s).run = s.run := by
  unfold captureTimeout; split_ifs <;> rfl
@[simp] theorem captureTimeout_trace (s : State) : (captureTimeout s).trace = s.trace := by
  unfold captureTimeout; split_ifs <;> rfl

/-! ### `captureUnit` -/

@[simp] theorem captureUnit_conf (line : Bool) (s : State) : (captureUnit line s).conf = s.conf := by
  unfold captureUnit; split <;> simp
@[simp] theorem captureUnit_cmd (line : Bool) (s : State) : (captureUnit line s).cmd = s.cmd := by
  unfold captureUnit; split <;> simp
@[simp] theorem captureUnit_cli (line : Bool) (s : State) : (captureUnit line s).cli = s.cli := by
  unfold captureUnit; split <;> simp
@[simp] theorem captureUnit_pca (line : Bool) (s : State) : (captureUnit line s).pca = s.pca := by
  unfold captureUnit; split <;> simp
@[simp] theorem captureUnit_pid (line : Bool) (s : State) : (captureUnit line s).pid = s.pid := by
  unfold captureUnit; split <;> simp
@[simp] theorem captureUnit_loop (line : Bool) (s : State) : (captureUnit line s).loop = s.loop := by
  unfold captureUnit; split <;> simp
@[simp] theorem captureUnit_cfgLock (line : Bool) (s : State) : (captureUnit line s).cfgLock = s.cfgLock := by
  unfold captureUnit; split <;> simp
@[simp] theorem captureUnit_ext (line : Bool) (s : State) : (captureUnit line s).ext = s.ext := by
  unfold captureUnit; split <;> simp
@[simp] theorem captureUnit_run (line : Bool) (s : State) : (captureUnit line s).run = s.run := by
  unfold captureUnit; split <;> simp
@[simp] theorem captureUnit_trace (line : Bool) (s : State) : (captureUnit line s).trace = s.trace := by
  unfold captureUnit; split <;> simp

/-! ### `readDue` -/

@[simp] theorem readDue_conf (s : State) : (readDue s).conf = s.conf := by
  unfold readDue; split_ifs <;> rfl
@[simp] theorem readDue_swd (s : State) : (readDue s).swd = s.swd := by
  unfold readDue; split_ifs <;> rfl
@[simp] theorem readDue_cli (s : State) : (readDue s).cli = s.cli := by
  unfold readDue; split_ifs <;> rfl
@[simp] theorem readDue_cap (s : State) : (readDue s).cap = s.cap := by
  unfold readDue; split_ifs <;> rfl
@[simp] theorem readDue_pid (s : State) : (readDue s).pid = s.pid := by
  unfold readDue; split_ifs <;> rfl
@[simp] theorem readDue_loop (s : State) : (readDue s).loop = s.loop := by
  unfold readDue; split_ifs <;> rfl
@[simp] theorem readDue_cfgLock (s : State) : (readDue s).cfgLock = s.cfgLock := by
  unfold readDue; split_ifs <;> rfl
@[simp] theorem readDue_ext (s : State) : (readDue s).ext = s.ext := by
  unfold readDue; split_ifs <;> rfl
@[simp] theorem readDue_trace (s : State) : (readDue s).trace = s.trace := by
  unfold readDue; split_ifs <;> rfl

/-! ### `hostTurn` -/

@[simp] theorem hostTurn_conf (zc : Bool) (s : State) : (hostTurn zc s).conf = s.conf := by
  unfold hostTurn; split <;> simp
@[simp] theorem hostTurn_swd (zc : Bool) (s : State) : (hostTurn zc s).swd = s.swd := by
  unfold hostTurn; split <;> simp
@[simp] theorem hostTurn_cli (zc : Bool) (s : State) : (hostTurn zc s).cli = s.cli := by
  unfold hostTurn; split <;> simp
@[simp] theorem hostTurn_cap (zc : Bool) (s : State) : (hostTurn zc s).cap = s.cap := by
  unfold hostTurn; split <;> simp
@[simp] theorem hostTurn_pid (zc : Bool) (s : State) : (hostTurn zc s).pid = s.pid := by
  unfold hostTurn; split <;> simp
@[simp] theorem hostTurn_loop (zc : Bool) (s : State) : (hostTurn zc s).loop = s.loop := by
  unfold hostTurn; split <;> simp
@[simp] theorem hostTurn_cfgLock (zc : Bool) (s : State) : (hostTurn zc s).cfgLock = s.cfgLock := by
  unfold hostTurn; split <;> simp
@[simp] theorem hostTurn_ext (zc : Bool) (s : State) : (hostTurn zc s).ext = s.ext := by
  unfold hostTurn; split <;> simp
@[simp] theorem hostTurn_trace (zc : Bool) (s : State) : (hostTurn zc s).trace = s.trace := by
  unfold hostTurn; split <;> simp

/-! ### `counterAEdge` -/

@[simp] theorem counterAEdge_conf (zc : Bool) (n : Half) (s : State) : (counterAEdge zc n s).conf = s.conf := by
  unfold counterAEdge; split_ifs <;> rfl
@[simp] theorem counterAEdge_cmd (zc : Bool) (n : Half) (s : State) : (counterAEdge zc n s).cmd = s.cmd := by
  unfold counterAEdge; split_ifs <;> rfl
@[simp] theorem counterAEdge_swd (zc : Bool) (n : Half) (s : State) : (counterAEdge zc n s).swd = s.swd := by
  unfold counterAEdge; split_ifs <;> rfl
@[simp] theorem counterAEdge_cli (zc : Bool) (n : Half) (s : State) : (counterAEdge zc n s).cli = s.cli := by
  unfold counterAEdge; split_ifs <;> rfl
@[simp] theorem counterAEdge_cap (zc : Bool) (n : Half) (s : State) : (counterAEdge zc n s).cap = s.cap := by
  unfold counterAEdge; split_ifs <;> rfl
@[simp] theorem counterAEdge_pid (zc : Bool) (n : Half) (s : State) : (counterAEdge zc n s).pid = s.pid := by
  unfold counterAEdge; split_ifs <;> rfl
@[simp] theorem counterAEdge_loop (zc : Bool) (n : Half) (s : State) : (counterAEdge zc n s).loop = s.loop := by
  unfold counterAEdge; split_ifs <;> rfl
@[simp] theorem counterAEdge_cfgLock (zc : Bool) (n : Half) (s : State) : (counterAEdge zc n s).cfgLock = s.cfgLock := by
  unfold counterAEdge; split_ifs <;> rfl
@[simp] theorem counterAEdge_ext (zc : Bool) (n : Half) (s : State) : (counterAEdge zc n s).ext = s.ext := by
  unfold counterAEdge; split_ifs <;> rfl
@[simp] theorem counterAEdge_run (zc : Bool) (n : Half) (s : State) : (counterAEdge zc n s).run = s.run := by
  unfold counterAEdge; split_ifs <;> rfl
@[simp] theorem counterAEdge_trace (zc : Bool) (n : Half) (s : State) : (counterAEdge zc n s).trace = s.trace := by
  unfold counterAEdge; split_ifs <;> rfl

/-! ### `counterA` -/

@[simp] theorem counterA_conf (zc : Bool) (s : State) : (counterA zc s).conf = s.conf := by
  unfold counterA; split <;> simp
@[simp] theorem counterA_cmd (zc : Bool) (s : State) : (counterA zc s).cmd = s.cmd := by
  unfold counterA; split <;> simp
@[simp] theorem counterA_swd (zc : Bool) (s : State) : (counterA zc s).swd = s.swd := by
  unfold counterA; split <;> simp
@[simp] theorem counterA_cli (zc : Bool) (s : State) : (counterA zc s).cli = s.cli := by
  unfold counterA; split <;> simp
@[simp] theorem counterA_cap (zc : Bool) (s : State) : (counterA zc s).cap = s.cap := by
  unfold counterA; split <;> simp
@[simp] theorem counterA_pid (zc : Bool) (s : State) : (counterA zc s).pid = s.pid := by
  unfold counterA; split <;> simp
@[simp] theorem counterA_loop (zc : Bool) (s : State) : (counterA zc s).loop = s.loop := by
  unfold counterA; split <;> simp
@[simp] theorem counterA_cfgLock (zc : Bool) (s : State) : (counterA zc s).cfgLock = s.cfgLock := by
  unfold counterA; split <;> simp
@[simp] theorem counterA_ext (zc : Bool) (s : State) : (counterA zc s).ext = s.ext := by
  unfold counterA; split <;> simp
@[simp] theorem counterA_run (zc : Bool) (s : State) : (counterA zc s).run = s.run := by
  unfold counterA; split <;> simp
@[simp] theorem counterA_trace (zc : Bool) (s : State) : (counterA zc s).trace = s.trace := by
  unfold counterA; split <;> simp

/-! ### `startTimer` -/

@[simp] theorem startTimer_conf (due : Bool) (s : State) : (startTimer due s).conf = s.conf := by
  unfold startTimer; split_ifs <;> rfl
@[simp] theorem startTimer_cmd (due : Bool) (s : State) : (startTimer due s).cmd = s.cmd := by
  unfold startTimer; split_ifs <;> rfl
@[simp] theorem startTimer_cli (due : Bool) (s : State) : (startTimer due s).cli = s.cli := by
  unfold startTimer; split_ifs <;> rfl
@[simp] theorem startTimer_pca (due : Bool) (s : State) : (startTimer due s).pca = s.pca := by
  unfold startTimer; split_ifs <;> rfl
@[simp] theorem startTimer_pid (due : Bool) (s : State) : (startTimer due s).pid = s.pid := by
  unfold startTimer; split_ifs <;> rfl
@[simp] theorem startTimer_loop (due : Bool) (s : State) : (startTimer due s).loop = s.loop := by
  unfold startTimer; split_ifs <;> rfl
@[simp] theorem startTimer_cfgLock (due : Bool) (s : State) : (startTimer due s).cfgLock = s.cfgLock := by
  unfold startTimer; split_ifs <;> rfl
@[simp] theorem startTimer_ext (due : Bool) (s : State) : (startTimer due s).ext = s.ext := by
  unfold startTimer; split_ifs <;> rfl
@[simp] theorem startTimer_run (due : Bool) (s : State) : (startTimer due s).run = s.run := by
  unfold startTimer; split_ifs <;> rfl
@[simp] theorem startTimer_trace (due : Bool) (s : State) : (startTimer due s).trace = s.trace := by
  unfold startTimer; split_ifs <;> rfl

/-! ### `waitTimer` -/

@[simp] theorem waitTimer_conf (due : Bool) (s : State) : (waitTimer due s).conf = s.conf := by
  unfold waitTimer; split_ifs <;> rfl
@[simp] theorem waitTimer_cmd (due : Bool) (s : State) : (waitTimer due s).cmd = s.cmd := by
  unfold waitTimer; split_ifs <;> rfl
@[simp] theorem waitTimer_cap (due : Bool) (s : State) : (waitTimer due s).cap = s.cap := by
  unfold waitTimer; split_ifs <;> rfl
@[simp] theorem waitTimer_pca (due : Bool) (s : State) : (waitTimer due s).pca = s.pca := by
  unfold waitTimer; split_ifs <;> rfl
@[simp] theorem waitTimer_pid (due : Bool) (s : State) : (waitTimer due s).pid = s.pid := by
  unfold waitTimer; split_ifs <;> rfl
@[simp] theorem waitTimer_loop (due : Bool) (s : State) : (waitTimer due s).loop = s.loop := by
  unfold waitTimer; split_ifs <;> rfl
@[simp] theorem waitTimer_cfgLock (due : Bool) (s : State) : (waitTimer due s).cfgLock = s.cfgLock := by
  unfold waitTimer; split_ifs <;> rfl
@[simp] theorem waitTimer_ext (due : Bool) (s : State) : (waitTimer due s).ext = s.ext := by
  unfold waitTimer; split_ifs <;> rfl
@[simp] theorem waitTimer_run (due : Bool) (s : State) : (waitTimer due s).run = s.run := by
  unfold waitTimer; split_ifs <;> rfl
@[simp] theorem waitTimer_trace (due : Bool) (s : State) : (waitTimer due s).trace = s.trace := by
  unfold waitTimer; split_ifs <;> rfl

/-! ### `countC` -/

@[simp] theorem countC_conf (s : State) : (countC s).conf = s.conf := by
  unfold countC; split_ifs <;> rfl
@[simp] theorem countC_cmd (s : State) : (countC s).cmd = s.cmd := by
  unfold countC; split_ifs <;> rfl
@[simp] theorem countC_swd (s : State) : (countC s).swd = s.swd := by
  unfold countC; split_ifs <;> rfl
@[simp] theorem countC_cli (s : State) : (countC s).cli = s.cli := by
  unfold countC; split_ifs <;> rfl
@[simp] theorem countC_cap (s : State) : (countC s).cap = s.cap := by
  unfold countC; split_ifs <;> rfl
@[simp] theorem countC_pid (s : State) : (countC s).pid = s.pid := by
  unfold countC; split_ifs <;> rfl
@[simp] theorem countC_loop (s : State) : (countC s).loop = s.loop := by
  unfold countC; split_ifs <;> rfl
@[simp] theorem countC_cfgLock (s : State) : (countC s).cfgLock = s.cfgLock := by
  unfold countC; split_ifs <;> rfl
@[simp] theorem countC_ext (s : State) : (countC s).ext = s.ext := by
  unfold countC; split_ifs <;> rfl
@[simp] theorem countC_run (s : State) : (countC s).run = s.run := by
  unfold countC; split_ifs <;> rfl
@[simp] theorem countC_trace (s : State) : (countC s).trace = s.trace := by
  unfold countC; split_ifs <;> rfl

/-! ### `countersBC` -/

@[simp] theorem countersBC_conf (s : State) : (countersBC s).conf = s.conf := by
  unfold countersBC; split_ifs <;> simp
@[simp] theorem countersBC_cmd (s : State) : (countersBC s).cmd = s.cmd := by
  unfold countersBC; split_ifs <;> simp
@[simp] theorem countersBC_swd (s : State) : (countersBC s).swd = s.swd := by
  unfold countersBC; split_ifs <;> simp
@[simp] theorem countersBC_cli (s : State) : (countersBC s).cli = s.cli := by
  unfold countersBC; split_ifs <;> simp
@[simp] theorem countersBC_cap (s : State) : (countersBC s).cap = s.cap := by
  unfold countersBC; split_ifs <;> simp
@[simp] theorem countersBC_pid (s : State) : (countersBC s).pid = s.pid := by
  unfold countersBC; split_ifs <;> simp
@[simp] theorem countersBC_loop (s : State) : (countersBC s).loop = s.loop := by
  unfold countersBC; split_ifs <;> simp
@[simp] theorem countersBC_cfgLock (s : State) : (countersBC s).cfgLock = s.cfgLock := by
  unfold countersBC; split_ifs <;> simp
@[simp] theorem countersBC_ext (s : State) : (countersBC s).ext = s.ext := by
  unfold countersBC; split_ifs <;> simp
@[simp] theorem countersBC_run (s : State) : (countersBC s).run = s.run := by
  unfold countersBC; split_ifs <;> simp
@[simp] theorem countersBC_trace (s : State) : (countersBC s).trace = s.trace := by
  unfold countersBC; split_ifs <;> simp

/-! ### `readTimer` -/

@[simp] theorem readTimer_conf (due : Bool) (s : State) : (readTimer due s).conf = s.conf := by
  unfold readTimer; split_ifs <;> rfl
@[simp] theorem readTimer_swd (due : Bool) (s : State) : (readTimer due s).swd = s.swd := by
  unfold readTimer; split_ifs <;> rfl
@[simp] theorem readTimer_cli (due : Bool) (s : State) : (readTimer due s).cli = s.cli := by
  unfold readTimer; split_ifs <;> rfl
@[simp] theorem readTimer_cap (due : Bool) (s : State) : (readTimer due s).cap = s.cap := by
  unfold readTimer; split_ifs <;> rfl
@[simp] theorem readTimer_pid (due : Bool) (s : State) : (readTimer due s).pid = s.pid := by
  unfold readTimer; split_ifs <;> rfl
@[simp] theorem readTimer_loop (due : Bool) (s : State) : (readTimer due s).loop = s.loop := by
  unfold readTimer; split_ifs <;> rfl
@[simp] theorem readTimer_cfgLock (due : Bool) (s : State) : (readTimer due s).cfgLock = s.cfgLock := by
  unfold readTimer; split_ifs <;> rfl
@[simp] theorem readTimer_ext (due : Bool) (s : State) : (readTimer due s).ext = s.ext := by
  unfold readTimer; split_ifs <;> rfl
@[simp] theorem readTimer_trace (due : Bool) (s : State) : (readTimer due s).trace = s.trace := by
  unfold readTimer; split_ifs <;> rfl

/-! ### `lockTimer` -/

@[simp] theorem lockTimer_conf (due : Bool) (s : State) : (lockTimer due s).conf = s.conf := by
  unfold lockTimer; split_ifs <;> rfl
@[simp] theorem lockTimer_cmd (due : Bool) (s : State) : (lockTimer due s).cmd = s.cmd := by
  unfold lockTimer; split_ifs <;> rfl
@[simp] theorem lockTimer_swd (due : Bool) (s : State) : (lockTimer due s).swd = s.swd := by
  unfold lockTimer; split_ifs <;> rfl
@[simp] theorem lockTimer_cli (due : Bool) (s : State) : (lockTimer due s).cli = s.cli := by
  unfold lockTimer; split_ifs <;> rfl
@[simp] theorem lockTimer_cap (due : Bool) (s : State) : (lockTimer due s).cap = s.cap := by
  unfold lockTimer; split_ifs <;> rfl
@[simp] theorem lockTimer_pca (due : Bool) (s : State) : (lockTimer due s).pca = s.pca := by
  unfold lockTimer; split_ifs <;> rfl
@[simp] theorem lockTimer_pid (due : Bool) (s : State) : (lockTimer due s).pid = s.pid := by
  unfold lockTimer; split_ifs <;> rfl
@[simp] theorem lockTimer_loop (due : Bool) (s : State) : (lockTimer due s).loop = s.loop := by
  unfold lockTimer; split_ifs <;> rfl
@[simp] theorem lockTimer_ext (due : Bool) (s : State) : (lockTimer due s).ext = s.ext := by
  unfold lockTimer; split_ifs <;> rfl
@[simp] theorem lockTimer_trace (due : Bool) (s : State) : (lockTimer due s).trace = s.trace := by
  unfold lockTimer; split_ifs <;> rfl

/-! ### `heldTimers` -/

theorem foldl_cancelHeld_frame (hs : List Held) (rest : List Held) (s : State) :
    let t := hs.foldl (fun t h => cancelHeld h rest t) s
    t.conf = s.conf ∧ t.swd = s.swd ∧ t.cap = s.cap ∧ t.pca = s.pca ∧ t.pid = s.pid ∧ t.loop = s.loop ∧
      t.cfgLock = s.cfgLock ∧ t.ext = s.ext ∧ t.trace = s.trace := by
  induction hs generalizing s with
  | nil => exact ⟨rfl, rfl, rfl, rfl, rfl, rfl, rfl, rfl, rfl⟩
  | cons h hs ih => exact ih (cancelHeld h rest s)

@[simp] theorem heldTimers_conf (s : State) : (heldTimers s).conf = s.conf :=
  (foldl_cancelHeld_frame _ _ s).1
@[simp] theorem heldTimers_swd (s : State) : (heldTimers s).swd = s.swd :=
  (foldl_cancelHeld_frame _ _ s).2.1
@[simp] theorem heldTimers_cap (s : State) : (heldTimers s).cap = s.cap :=
  (foldl_cancelHeld_frame _ _ s).2.2.1
@[simp] theorem heldTimers_pca (s : State) : (heldTimers s).pca = s.pca :=
  (foldl_cancelHeld_frame _ _ s).2.2.2.1
@[simp] theorem heldTimers_pid (s : State) : (heldTimers s).pid = s.pid :=
  (foldl_cancelHeld_frame _ _ s).2.2.2.2.1
@[simp] theorem heldTimers_loop (s : State) : (heldTimers s).loop = s.loop :=
  (foldl_cancelHeld_frame _ _ s).2.2.2.2.2.1
@[simp] theorem heldTimers_cfgLock (s : State) : (heldTimers s).cfgLock = s.cfgLock :=
  (foldl_cancelHeld_frame _ _ s).2.2.2.2.2.2.1
@[simp] theorem heldTimers_ext (s : State) : (heldTimers s).ext = s.ext :=
  (foldl_cancelHeld_frame _ _ s).2.2.2.2.2.2.2.1
@[simp] theorem heldTimers_trace (s : State) : (heldTimers s).trace = s.trace :=
  (foldl_cancelHeld_frame _ _ s).2.2.2.2.2.2.2.2

/-! ### `takeBit` -/

@[simp] theorem takeBit_conf (b : Bool) (s : State) : (takeBit b s).conf = s.conf := by
  unfold takeBit; split_ifs <;> rfl
@[simp] theorem takeBit_cmd (b : Bool) (s : State) : (takeBit b s).cmd = s.cmd := by
  unfold takeBit; split_ifs <;> rfl
@[simp] theorem takeBit_cap (b : Bool) (s : State) : (takeBit b s).cap = s.cap := by
  unfold takeBit; split_ifs <;> rfl
@[simp] theorem takeBit_pca (b : Bool) (s : State) : (takeBit b s).pca = s.pca := by
  unfold takeBit; split_ifs <;> rfl
@[simp] theorem takeBit_pid (b : Bool) (s : State) : (takeBit b s).pid = s.pid := by
  unfold takeBit; split_ifs <;> rfl
@[simp] theorem takeBit_loop (b : Bool) (s : State) : (takeBit b s).loop = s.loop := by
  unfold takeBit; split_ifs <;> rfl
@[simp] theorem takeBit_cfgLock (b : Bool) (s : State) : (takeBit b s).cfgLock = s.cfgLock := by
  unfold takeBit; split_ifs <;> rfl
@[simp] theorem takeBit_ext (b : Bool) (s : State) : (takeBit b s).ext = s.ext := by
  unfold takeBit; split_ifs <;> rfl
@[simp] theorem takeBit_run (b : Bool) (s : State) : (takeBit b s).run = s.run := by
  unfold takeBit; split_ifs <;> rfl
@[simp] theorem takeBit_trace (b : Bool) (s : State) : (takeBit b s).trace = s.trace := by
  unfold takeBit; split_ifs <;> rfl

/-! ### `symbolEffect` -/

@[simp] theorem symbolEffect_conf (sym : Symbol) (s : State) : (symbolEffect sym s).conf = s.conf := by
  cases sym <;> simp [symbolEffect]
@[simp] theorem symbolEffect_cmd (sym : Symbol) (s : State) : (symbolEffect sym s).cmd = s.cmd := by
  cases sym <;> simp [symbolEffect]
@[simp] theorem symbolEffect_cap (sym : Symbol) (s : State) : (symbolEffect sym s).cap = s.cap := by
  cases sym <;> simp [symbolEffect]
@[simp] theorem symbolEffect_pca (sym : Symbol) (s : State) : (symbolEffect sym s).pca = s.pca := by
  cases sym <;> simp [symbolEffect]
@[simp] theorem symbolEffect_pid (sym : Symbol) (s : State) : (symbolEffect sym s).pid = s.pid := by
  cases sym <;> simp [symbolEffect]
@[simp] theorem symbolEffect_loop (sym : Symbol) (s : State) : (symbolEffect sym s).loop = s.loop := by
  cases sym <;> simp [symbolEffect]
@[simp] theorem symbolEffect_cfgLock (sym : Symbol) (s : State) : (symbolEffect sym s).cfgLock = s.cfgLock := by
  cases sym <;> simp [symbolEffect]
@[simp] theorem symbolEffect_ext (sym : Symbol) (s : State) : (symbolEffect sym s).ext = s.ext := by
  cases sym <;> simp [symbolEffect]
@[simp] theorem symbolEffect_run (sym : Symbol) (s : State) : (symbolEffect sym s).run = s.run := by
  cases sym <;> simp [symbolEffect]
@[simp] theorem symbolEffect_trace (sym : Symbol) (s : State) : (symbolEffect sym s).trace = s.trace := by
  cases sym <;> simp [symbolEffect]

/-! ### `consumeSample` -/

@[simp] theorem consumeSample_conf (s : State) : (consumeSample s).conf = s.conf := by
  simp [consumeSample]
@[simp] theorem consumeSample_cmd (s : State) : (consumeSample s).cmd = s.cmd := by
  simp [consumeSample]
@[simp] theorem consumeSample_cap (s : State) : (consumeSample s).cap = s.cap := by
  simp [consumeSample]
@[simp] theorem consumeSample_pca (s : State) : (consumeSample s).pca = s.pca := by
  simp [consumeSample]
@[simp] theorem consumeSample_pid (s : State) : (consumeSample s).pid = s.pid := by
  simp [consumeSample]
@[simp] theorem consumeSample_loop (s : State) : (consumeSample s).loop = s.loop := by
  simp [consumeSample]
@[simp] theorem consumeSample_cfgLock (s : State) : (consumeSample s).cfgLock = s.cfgLock := by
  simp [consumeSample]
@[simp] theorem consumeSample_ext (s : State) : (consumeSample s).ext = s.ext := by
  simp [consumeSample]
@[simp] theorem consumeSample_run (s : State) : (consumeSample s).run = s.run := by
  simp [consumeSample]
@[simp] theorem consumeSample_trace (s : State) : (consumeSample s).trace = s.trace := by
  simp [consumeSample]

/-! ### `sequencerTurn` -/

@[simp] theorem sequencerTurn_conf (consume : Bool) (s : State) : (sequencerTurn consume s).conf = s.conf := by
  unfold sequencerTurn; split <;> simp
@[simp] theorem sequencerTurn_cmd (consume : Bool) (s : State) : (sequencerTurn consume s).cmd = s.cmd := by
  unfold sequencerTurn; split <;> simp
@[simp] theorem sequencerTurn_cap (consume : Bool) (s : State) : (sequencerTurn consume s).cap = s.cap := by
  unfold sequencerTurn; split <;> simp
@[simp] theorem sequencerTurn_pca (consume : Bool) (s : State) : (sequencerTurn consume s).pca = s.pca := by
  unfold sequencerTurn; split <;> simp
@[simp] theorem sequencerTurn_pid (consume : Bool) (s : State) : (sequencerTurn consume s).pid = s.pid := by
  unfold sequencerTurn; split <;> simp
@[simp] theorem sequencerTurn_loop (consume : Bool) (s : State) : (sequencerTurn consume s).loop = s.loop := by
  unfold sequencerTurn; split <;> simp
@[simp] theorem sequencerTurn_cfgLock (consume : Bool) (s : State) : (sequencerTurn consume s).cfgLock = s.cfgLock := by
  unfold sequencerTurn; split <;> simp
@[simp] theorem sequencerTurn_ext (consume : Bool) (s : State) : (sequencerTurn consume s).ext = s.ext := by
  unfold sequencerTurn; split <;> simp
@[simp] theorem sequencerTurn_run (consume : Bool) (s : State) : (sequencerTurn consume s).run = s.run := by
  unfold sequencerTurn; split <;> simp
@[simp] theorem sequencerTurn_trace (consume : Bool) (s : State) : (sequencerTurn consume s).trace = s.trace := by
  unfold sequencerTurn; split <;> simp

/-! ### `deadlineTimer` -/

@[simp] theorem deadlineTimer_conf (due consume : Bool) (s : State) : (deadlineTimer due consume s).conf = s.conf := by
  unfold deadlineTimer; dsimp only; split_ifs <;> simp
@[simp] theorem deadlineTimer_cap (due consume : Bool) (s : State) : (deadlineTimer due consume s).cap = s.cap := by
  unfold deadlineTimer; dsimp only; split_ifs <;> simp
@[simp] theorem deadlineTimer_pca (due consume : Bool) (s : State) : (deadlineTimer due consume s).pca = s.pca := by
  unfold deadlineTimer; dsimp only; split_ifs <;> simp
@[simp] theorem deadlineTimer_pid (due consume : Bool) (s : State) : (deadlineTimer due consume s).pid = s.pid := by
  unfold deadlineTimer; dsimp only; split_ifs <;> simp
@[simp] theorem deadlineTimer_loop (due consume : Bool) (s : State) : (deadlineTimer due consume s).loop = s.loop := by
  unfold deadlineTimer; dsimp only; split_ifs <;> simp
@[simp] theorem deadlineTimer_cfgLock (due consume : Bool) (s : State) : (deadlineTimer due consume s).cfgLock = s.cfgLock := by
  unfold deadlineTimer; dsimp only; split_ifs <;> simp
@[simp] theorem deadlineTimer_ext (due consume : Bool) (s : State) : (deadlineTimer due consume s).ext = s.ext := by
  unfold deadlineTimer; dsimp only; split_ifs <;> simp
@[simp] theorem deadlineTimer_trace (due consume : Bool) (s : State) : (deadlineTimer due consume s).trace = s.trace := by
  unfold deadlineTimer; dsimp only; split_ifs <;> simp

/-! ### `takeCompletion` -/

@[simp] theorem takeCompletion_conf (s : State) : (takeCompletion s).conf = s.conf := by
  unfold takeCompletion; split_ifs <;> rfl
@[simp] theorem takeCompletion_cap (s : State) : (takeCompletion s).cap = s.cap := by
  unfold takeCompletion; split_ifs <;> rfl
@[simp] theorem takeCompletion_pca (s : State) : (takeCompletion s).pca = s.pca := by
  unfold takeCompletion; split_ifs <;> rfl
@[simp] theorem takeCompletion_pid (s : State) : (takeCompletion s).pid = s.pid := by
  unfold takeCompletion; split_ifs <;> rfl
@[simp] theorem takeCompletion_loop (s : State) : (takeCompletion s).loop = s.loop := by
  unfold takeCompletion; split_ifs <;> rfl
@[simp] theorem takeCompletion_cfgLock (s : State) : (takeCompletion s).cfgLock = s.cfgLock := by
  unfold takeCompletion; split_ifs <;> rfl
@[simp] theorem takeCompletion_ext (s : State) : (takeCompletion s).ext = s.ext := by
  unfold takeCompletion; split_ifs <;> rfl
@[simp] theorem takeCompletion_trace (s : State) : (takeCompletion s).trace = s.trace := by
  unfold takeCompletion; split_ifs <;> rfl

/-! ### `recordReading` -/

@[simp] theorem recordReading_conf (st : Byte) (s : State) : (recordReading st s).conf = s.conf := by
  unfold recordReading; split_ifs <;> rfl
@[simp] theorem recordReading_cmd (st : Byte) (s : State) : (recordReading st s).cmd = s.cmd := by
  unfold recordReading; split_ifs <;> rfl
@[simp] theorem recordReading_swd (st : Byte) (s : State) : (recordReading st s).swd = s.swd := by
  unfold recordReading; split_ifs <;> rfl
@[simp] theorem recordReading_cli (st : Byte) (s : State) : (recordReading st s).cli = s.cli := by
  unfold recordReading; split_ifs <;> rfl
@[simp] theorem recordReading_cap (st : Byte) (s : State) : (recordReading st s).cap = s.cap := by
  unfold recordReading; split_ifs <;> rfl
@[simp] theorem recordReading_pca (st : Byte) (s : State) : (recordReading st s).pca = s.pca := by
  unfold recordReading; split_ifs <;> rfl
@[simp] theorem recordReading_pid (st : Byte) (s : State) : (recordReading st s).pid = s.pid := by
  unfold recordReading; split_ifs <;> rfl
@[simp] theorem recordReading_cfgLock (st : Byte) (s : State) : (recordReading st s).cfgLock = s.cfgLock := by
  unfold recordReading; split_ifs <;> rfl
@[simp] theorem recordReading_ext (st : Byte) (s : State) : (recordReading st s).ext = s.ext := by
  unfold recordReading; split_ifs <;> rfl
@[simp] theorem recordReading_run (st : Byte) (s : State) : (recordReading st s).run = s.run := by
  unfold recordReading; split_ifs <;> rfl
@[simp] theorem recordReading_trace (st : Byte) (s : State) : (recordReading st s).trace = s.trace := by
  unfold recordReading; split_ifs <;> rfl

/-! ### `settle` -/

@[simp] theorem settle_conf (s : State) : (settle s).conf = s.conf := by
  unfold settle; split <;> [skip; split] <;> simp
@[simp] theorem settle_cmd (s : State) : (settle s).cmd = s.cmd := by
  unfold settle; split <;> [skip; split] <;> simp
@[simp] theorem settle_cap (s : State) : (settle s).cap = s.cap := by
  unfold settle; split <;> [skip; split] <;> simp
@[simp] theorem settle_pca (s : State) : (settle s).pca = s.pca := by
  unfold settle; split <;> [skip; split] <;> simp
@[simp] theorem settle_pid (s : State) : (settle s).pid = s.pid := by
  unfold settle; split <;> [skip; split] <;> simp
@[simp] theorem settle_loop (s : State) : (settle s).loop = s.loop := by
  unfold settle; split <;> [skip; split] <;> simp
@[simp] theorem settle_cfgLock (s : State) : (settle s).cfgLock = s.cfgLock := by
  unfold settle; split <;> [skip; split] <;> simp
@[simp] theorem settle_ext (s : State) : (settle s).ext = s.ext := by
  unfold settle; split <;> [skip; split] <;> simp
@[simp] theorem settle_trace (s : State) : (settle s).trace = s.trace := by
  unfold settle; split <;> [skip; split] <;> simp

/-! ### `tick` -/

@[simp] theorem tick_conf (sensorLow zc consume : Bool) (s : State) : (tick sensorLow zc consume s).conf = s.conf := by
  simp [tick]
@[simp] theorem tick_pid (sensorLow zc consume : Bool) (s : State) : (tick sensorLow zc consume s).pid = s.pid := by
  simp [tick]
@[simp] theorem tick_loop (sensorLow zc consume : Bool) (s : State) : (tick sensorLow zc consume s).loop = s.loop := by
  simp [tick]
@[simp] theorem tick_ext (sensorLow zc consume : Bool) (s : State) : (tick sensorLow zc consume s).ext = s.ext := by
  simp [tick]
@[simp] theorem tick_trace (sensorLow zc consume : Bool) (s : State) : (tick sensorLow zc consume s).trace = s.trace := by
  simp [tick]

end Sys2Proof.Machine
end

