-- ==== Sys2Proof/Laws/Ops.lean ====
section
/-!
SUPPORT. What the shared operations compute: narrowing and rounding (00_scope.md R8), the sample word and its
classification (30_encoding.md R82 to R85), the packet (R86, R87), completion (41_sensor_decoder.md R143), the phase table
(42_phase_actuator.md R163) and the PID's helpers (43_pid.md R191, R192).
-/
namespace Sys2Proof.Machine

/-! ### Narrowing and rounding -/

theorem wrap32_toInt (w : Word) : wrap32 w.toInt = w := BitVec.ofInt_toInt

theorem wrap32_dvd (v : Int) : (2 ^ 32 : Int) ∣ (wrap32 v).toInt - v := by
  simp only [wrap32, BitVec.toInt_ofInt, Int.bmod_def]
  split <;> omega

theorem wrap32_fits {v : Int} (h : fits32 v = true) : (wrap32 v).toInt = v := by
  simp only [fits32, decide_eq_true_eq] at h
  simp only [wrap32, BitVec.toInt_ofInt]
  rw [Int.bmod_eq_of_le] <;> omega

theorem wrap16_dvd (v : Int) : (2 ^ 16 : Int) ∣ (wrap16 v).toNat - v := by
  simp only [wrap16, BitVec.toNat_ofInt]
  have h0 : (0 : Int) ≤ v % 65536 := Int.emod_nonneg _ (by decide)
  norm_num
  rw [max_eq_left h0]
  omega

theorem asr_eq (v : Int) (n : Nat) : asr v n = v / 2 ^ n := by simp [asr]

/-- `>>a` rounds toward minus infinity. -/
theorem asr_le (v : Int) (n : Nat) : asr v n * 2 ^ n ≤ v := by
  rw [asr_eq]
  have := Int.emod_add_mul_ediv v (2 ^ n)
  have := Int.emod_nonneg v (b := 2 ^ n) (by positivity)
  nlinarith

theorem lt_asr (v : Int) (n : Nat) : v < (asr v n + 1) * 2 ^ n := by
  rw [asr_eq]
  have := Int.emod_add_mul_ediv v (2 ^ n)
  have := Int.emod_lt_of_pos v (b := 2 ^ n) (by positivity)
  nlinarith

theorem fxMulWide_eq (f : Nat) (a b : Int) : fxMulWide f a b = a * b / 2 ^ f := asr_eq _ _

theorem fxDivWide_eq (f : Nat) (a b : Int) : fxDivWide f a b = Int.tdiv (a * 2 ^ f) b := by
  simp [fxDivWide, tdiv, shl]

theorem tmod_abs_lt (a : Int) {b : Int} (hb : b ≠ 0) : |a.tmod b| < |b| := by
  rw [Int.abs_eq_natAbs, Int.abs_eq_natAbs, Int.natAbs_tmod]
  exact_mod_cast Nat.mod_lt _ (Int.natAbs_pos.mpr hb)

theorem tmod_sign (a b : Int) : 0 ≤ a.tmod b * a := by
  rcases le_total 0 a with h | h
  · exact mul_nonneg (Int.tmod_nonneg _ h) h
  · have : 0 ≤ (-a).tmod b := Int.tmod_nonneg _ (by omega)
    rw [Int.neg_tmod] at this
    nlinarith

theorem clamp_mem {v lo hi : Int} (h : lo ≤ hi) : lo ≤ clamp v lo hi ∧ clamp v lo hi ≤ hi := by
  unfold clamp
  split_ifs <;> omega

/-- A value clamped between two words fits a word. -/
theorem clamp_toInt (v : Int) (lo hi : Word) :
    (wrap32 (clamp v lo.toInt hi.toInt)).toInt = clamp v lo.toInt hi.toInt := by
  apply wrap32_fits
  have := lo.toInt_lt
  have := lo.le_toInt
  have := hi.toInt_lt
  have := hi.le_toInt
  rw [fits32, decide_eq_true_eq, clamp]
  split_ifs <;> omega

/-! ### The sample word and its classification -/

theorem packSample_getLsbD (p q : Half) (i : Nat) :
    (packSample p q).getLsbD i = if i < 16 then q.getLsbD i else p.getLsbD (i - 16) :=
  BitVec.getLsbD_append

@[simp] theorem samplePeriod_packSample (p q : Half) : samplePeriod (packSample p q) = p := by
  apply BitVec.eq_of_getLsbD_eq
  intro i hi
  simp only [samplePeriod, BitVec.getLsbD_extractLsb', packSample_getLsbD, hi]
  simp

@[simp] theorem sampleSecond_packSample (p q : Half) : sampleSecond (packSample p q) = q := by
  apply BitVec.eq_of_getLsbD_eq
  intro i hi
  simp only [sampleSecond, BitVec.getLsbD_extractLsb', packSample_getLsbD, hi]
  simp [hi]

@[simp] theorem packSample_parts (w : Word) : packSample (samplePeriod w) (sampleSecond w) = w := by
  apply BitVec.eq_of_getLsbD_eq
  intro i hi
  simp only [packSample_getLsbD, sampleSecond, samplePeriod, BitVec.getLsbD_extractLsb']
  split
  · simp [*]
  · have : i - 16 < 16 := by omega
    have h2 : 16 + (i - 16) = i := by omega
    simp [this, h2]

theorem inWindow_iff (x : Int) (v : Nat) :
    inWindow x v = true ↔ (v : Int) - (v : Int) / 2 ≤ x ∧ x ≤ (v : Int) + (v : Int) / 2 := by
  simp [inWindow]

theorem classifyStart_ne_bit (c : Config) (w : Word) : classifyStart c w ≠ .bit0 ∧ classifyStart c w ≠ .bit1 := by
  unfold classifyStart
  split_ifs <;> simp

theorem classifyBit_ne_start (c : Config) (w : Word) : classifyBit c w ≠ .start := by
  unfold classifyBit
  split_ifs <;> simp

/-! ### The packet -/

theorem setBit_getLsbD (v : Byte) {i : Nat} (b : Bool) (j : Nat) (hi : i < 8) :
    (setBit v i b).getLsbD j = if j = i then b else v.getLsbD j := by
  unfold setBit
  cases b <;> simp [BitVec.getLsbD_twoPow]
  · by_cases hj : j = i
    · subst hj
      simp [hi]
    · simp [hj]
      intro h
      have := BitVec.lt_of_getLsbD h
      simp [this]
      omega
  · by_cases hj : j = i
    · subst hj
      simp [hi]
    · simp [hj, Ne.symm hj]

/-- A bit store changes its own bit and no other (20_memory.md R61). -/
theorem packetBit_storeBit (buf : Packet) {i : Nat} (b : Bool) {j : Nat} (hj : j < 40) :
    packetBit (storeBit buf i b) j = if j = i then b else packetBit buf j := by
  have hj8 : j / 8 < 5 := by omega
  simp only [packetBit, storeBit, Vector.getElem?_setIfInBounds]
  by_cases h : i / 8 = j / 8
  · simp only [h, hj8, if_true, Option.getD_some]
    rw [setBit_getLsbD _ _ _ (by omega)]
    by_cases hji : j = i
    · subst hji
      simp
    · have : ¬ (7 - j % 8 = 7 - i % 8) := by omega
      simp [this, hji]
  · have : j ≠ i := by
      rintro rfl
      exact h rfl
    simp [h, this]

theorem packetBit_zero {i : Nat} (hi : i < 40) : packetBit Packet.zero i = false := by
  revert i
  decide

theorem checksumOk_iff (buf : Packet) : checksumOk buf = true ↔ buf[4] = buf[0] + buf[1] + buf[2] + buf[3] := by
  simp [checksumOk, ← BitVec.toNat_inj, BitVec.toNat_add]
  constructor <;> intro h <;> omega

/-! ### The decoder's shared operations -/

/-- The return of an exchange, as one record update. -/
theorem takeCompletion_eq (s : State) : takeCompletion s = { s with
    cli.done := false, cmd.status := s.cli.err, run.served := none
    swd.temperature := if s.cli.err = 0 then temperatureOf s.cli.buf else s.swd.temperature
    swd.humidity := if s.cli.err = 0 then humidityOf s.cli.buf else s.swd.humidity
    cmd.r0 := if s.cli.err = 0 then sext32 (temperatureOf s.cli.buf) else s.cmd.r0
    cmd.r1 := if s.cli.err = 0 then sext32 (humidityOf s.cli.buf) else s.cmd.r1 } := by
  by_cases h : s.cli.err = statusOk
  · rw [takeCompletion, if_pos h]
    rw [statusOk] at h
    simp only [h, if_true]
  · rw [takeCompletion, if_neg h]
    rw [statusOk] at h
    simp only [if_neg h]

@[simp] theorem takeCompletion_run (s : State) : (takeCompletion s).run = { s.run with served := none } := by
  unfold takeCompletion
  split_ifs <;> rfl

/-! ### The phase table -/

theorem nonIncreasing_getElem {t : List Word} (h : nonIncreasing t = true) {a b : Nat} {x y : Word} (hab : a ≤ b)
    (hx : t[a]? = some x) (hy : t[b]? = some y) : y.toNat ≤ x.toNat := by
  induction t generalizing a b x y with
  | nil => simp at hx
  | cons z t ih =>
    cases t with
    | nil =>
      cases a <;> cases b <;> simp at hx hy
      subst hx hy
      rfl
    | cons w t =>
      simp only [nonIncreasing, Bool.and_eq_true, decide_eq_true_eq] at h
      cases a with
      | succ a =>
        cases b with
        | zero => omega
        | succ b => exact ih h.2 (by omega) hx hy
      | zero =>
        cases b with
        | zero =>
          simp at hx hy
          subst hx hy
          rfl
        | succ b =>
          simp at hx
          subst hx
          have := ih h.2 (a := 0) (b := b) (x := w) (by omega) rfl (by simpa using hy)
          omega

theorem phaseTable_entry_le {c : Config} (h : phaseTableOk c = true) (i : Nat) :
    (c.pcaTable[i]?.getD 0).toNat ≤ 2 ^ c.pcaShift := by
  simp only [phaseTableOk, Bool.and_eq_true, List.all_eq_true, decide_eq_true_eq] at h
  cases he : c.pcaTable[i]? with
  | none => simp
  | some e => simpa using h.1.2 e (List.mem_of_getElem? he)

/-! ### The PID's helpers -/

theorem pidDt_eq (p : Pid) (ts : Word) : pidDt p ts = (ts - p.prevTs).toInt := by
  simp [pidDt, wrap32, BitVec.toInt_ofInt, BitVec.toInt_sub]

end Sys2Proof.Machine
end

