-- ==== Sys2Proof/Laws/Tick.lean ====
section
/-!
SUPPORT. What each piece of a tick does: the capture unit (41_sensor_decoder.md R148), the timers (R147), Counters A, B and C
(42_phase_actuator.md R175, R176), and the deadlines.
-/
namespace Sys2Proof.Machine

/-! ### Timers -/

theorem countDown_ne {n : Nat} {f : Bool} {t : BitVec n} (h : countDown f t ≠ 0) : t ≠ 0 := by
  rintro rfl
  exact h (by simp [countDown])

theorem startTimer_false (s : State) : startTimer false s = s := by simp [startTimer]
theorem waitTimer_false (s : State) : waitTimer false s = s := by simp [waitTimer]
theorem readTimer_false (s : State) : readTimer false s = s := by simp [readTimer]
theorem lockTimer_false (s : State) : lockTimer false s = s := by simp [lockTimer]
theorem deadlineTimer_false (c : Bool) (s : State) : deadlineTimer false c s = sequencerTurn c s := by
  simp [deadlineTimer]

theorem sequencerTurn_quiet (c : Bool) {s : State} (h : ¬ (Waiting s ∧ s.swd.sig = true)) : sequencerTurn c s = s := by
  rw [sequencerTurn, if_neg (fun hc => h hc.2)]

/-! ### The capture unit -/

theorem captureTimeout_ne {s : State} (h : s.cap.cnt ≠ s.conf.tCapto) : captureTimeout s = s := if_neg h

/-- No edge, no timeout: the counter counts. -/
theorem captureUnit_quiet {line : Bool} {s : State} (h : s.swd.irqEn = true) (hp : s.cap.prev = line)
    (hn : s.cap.cnt + 1 ≠ s.conf.tCapto) :
    captureUnit line s = { s with cap.cnt := s.cap.cnt + 1 } := by
  have e : captureEdge line (s.cap.cnt + 1) s = { s with cap.cnt := s.cap.cnt + 1 } := by
    rw [captureEdge, hp]
    cases line <;> rfl
  rw [captureUnit, if_pos h, e, captureTimeout, if_neg hn, ← hp]

/-- No edge and the timeout: it fires and reloads. -/
theorem captureUnit_timeout {line : Bool} {s : State} (h : s.swd.irqEn = true) (hp : s.cap.prev = line)
    (hn : s.cap.cnt + 1 = s.conf.tCapto) :
    captureUnit line s = { s with cap.cnt := 0, swd.sample := packSample 0 0, swd.sig := true } := by
  have e : captureEdge line (s.cap.cnt + 1) s = { s with cap.cnt := s.cap.cnt + 1 } := by
    rw [captureEdge, hp]
    cases line <;> rfl
  rw [captureUnit, if_pos h, e, captureTimeout, if_pos hn, ← hp]
  rfl

/-- A rising edge latches the low time. -/
theorem captureUnit_rise {s : State} (h : s.swd.irqEn = true) (hp : s.cap.prev = false)
    (hn : s.cap.cnt + 1 ≠ s.conf.tCapto) :
    captureUnit true s =
      { s with cap.cnt := s.cap.cnt + 1, cap.lowLatch := s.cap.cnt + 1, cap.prev := true } := by
  have e : captureEdge true (s.cap.cnt + 1) s =
      { s with cap.cnt := s.cap.cnt + 1, cap.lowLatch := s.cap.cnt + 1 } := by
    rw [captureEdge, hp]
    rfl
  rw [captureUnit, if_pos h, e, captureTimeout, if_neg hn]

/-- A falling edge after the first fires a sample. -/
theorem captureUnit_fall {s : State} (h : s.swd.irqEn = true) (hp : s.cap.prev = true) (hf : s.cap.first = false)
    (hn : s.conf.tCapto ≠ 0) :
    captureUnit false s = { s with
      cap.cnt := 0, cap.prev := false
      swd.sample := packSample (s.cap.cnt + 1) s.cap.lowLatch, swd.sig := true } := by
  have e : captureEdge false (s.cap.cnt + 1) s =
      storeSample (packSample (s.cap.cnt + 1) s.cap.lowLatch) { s with cap.cnt := 0 } := by
    rw [captureEdge, hp, hf]
    rfl
  rw [captureUnit, if_pos h, e, captureTimeout_ne hn.symm]
  rfl

/-- The first falling edge after arming starts the count. -/
theorem captureUnit_first {s : State} (h : s.swd.irqEn = true) (hp : s.cap.prev = true) (hf : s.cap.first = true)
    (hn : s.conf.tCapto ≠ 0) :
    captureUnit false s = { s with cap.first := false, cap.cnt := 0, cap.prev := false } := by
  have e : captureEdge false (s.cap.cnt + 1) s = { s with cap.first := false, cap.cnt := 0 } := by
    rw [captureEdge, hp, hf]
    rfl
  rw [captureUnit, if_pos h, e, captureTimeout_ne hn.symm]

/-! ### Counter A -/

/-- No edge: the counter counts. -/
theorem counterA_quiet {zc : Bool} {s : State} (h : s.pca.irqEn = true) (hp : s.pca.aPrev = zc) :
    counterA zc s = { s with pca.aCnt := s.pca.aCnt + 1 } := by
  have e : counterAEdge zc (s.pca.aCnt + 1) s = { s with pca.aCnt := s.pca.aCnt + 1 } := by
    rw [counterAEdge, hp]
    cases zc <;> rfl
  rw [counterA, if_pos h, e, ← hp]

/-- The detector's falling edge latches the high time. -/
theorem counterA_fall {s : State} (h : s.pca.irqEn = true) (hp : s.pca.aPrev = true) :
    counterA false s =
      { s with pca.aHigh := s.pca.aCnt + 1, pca.aCnt := s.pca.aCnt + 1, pca.aPrev := false } := by
  have e : counterAEdge false (s.pca.aCnt + 1) s =
      { s with pca.aHigh := s.pca.aCnt + 1, pca.aCnt := s.pca.aCnt + 1 } := by
    rw [counterAEdge, hp]
    rfl
  rw [counterA, if_pos h, e]

/-- The first rising edge starts the count. -/
theorem counterA_first {s : State} (h : s.pca.irqEn = true) (hp : s.pca.aPrev = false) (hf : s.pca.aFirst = true) :
    counterA true s = { s with pca.aFirst := false, pca.aCnt := 0, pca.aPrev := true } := by
  have e : counterAEdge true (s.pca.aCnt + 1) s = { s with pca.aFirst := false, pca.aCnt := 0 } := by
    rw [counterAEdge, hp, hf]
    rfl
  rw [counterA, if_pos h, e]

/-- A later rising edge is a zero crossing. -/
theorem counterA_rise {s t : State} (h : s.pca.irqEn = true) (hp : s.pca.aPrev = false) (hf : s.pca.aFirst = false)
    (ht : t = zeroCrossing (s.pca.aCnt + 1) s.pca.aHigh s) :
    counterA true s = { t with pca.aCnt := 0, pca.aPrev := true } := by
  have e : counterAEdge true (s.pca.aCnt + 1) s = { t with pca.aCnt := 0 } := by
    rw [counterAEdge, hp, hf, ht]
    rfl
  rw [counterA, if_pos h, e]

/-! ### A completion of PCA_READ that is due -/

/-- Due: it runs. -/
theorem readDue_due {s : State} (h : s.run.pcaReadBlocked = true) (h2 : s.pca.sig = true) : readDue s = completeRead s :=
  if_pos ⟨h, h2⟩

/-- Not due: nothing. -/
theorem readDue_idle {s : State} (h : ¬ (s.run.pcaReadBlocked = true ∧ s.pca.sig = true)) : readDue s = s := if_neg h

/-- No crossing on this tick, or nothing due: the tick begins as it stands. -/
theorem hostTurn_quiet {zc : Bool} {s : State} (h : crosses zc s = false) : hostTurn zc s = s := by simp [hostTurn, h]
theorem hostTurn_idle (zc : Bool) {s : State} (h : ¬ (s.run.pcaReadBlocked = true ∧ s.pca.sig = true)) :
    hostTurn zc s = s := by
  simp [hostTurn, readDue_idle h]

/-- No crossing without a rising edge of the detector. -/
theorem crosses_of_prev {zc : Bool} {s : State} (h : s.pca.aPrev = zc) : crosses zc s = false := by
  subst h; simp [crosses, rises]
theorem crosses_low (s : State) : crosses false s = false := by simp [crosses, rises]
theorem crosses_of_disabled {zc : Bool} {s : State} (h : s.pca.irqEn = false) : crosses zc s = false := by
  simp [crosses, h]
theorem crosses_of_first {zc : Bool} {s : State} (h : s.pca.aFirst = true) : crosses zc s = false := by
  simp [crosses, h]

/-- Of the model's record it changes the block only. -/
theorem readDue_run (s : State) :
    (readDue s).run = { s.run with pcaReadBlocked := (readDue s).run.pcaReadBlocked } := by
  unfold readDue; split <;> rfl

@[simp] theorem readDue_served (s : State) : (readDue s).run.served = s.run.served := by rw [readDue_run]
@[simp] theorem hostTurn_served (zc : Bool) (s : State) : (hostTurn zc s).run.served = s.run.served := by
  unfold hostTurn; split <;> simp
@[simp] theorem readDue_held (s : State) : (readDue s).run.held = s.run.held := by rw [readDue_run]
@[simp] theorem hostTurn_held (zc : Bool) (s : State) : (hostTurn zc s).run.held = s.run.held := by
  unfold hostTurn; split <;> simp
@[simp] theorem readDue_stage (s : State) : (readDue s).run.stage = s.run.stage := by rw [readDue_run]
@[simp] theorem hostTurn_stage (zc : Bool) (s : State) : (hostTurn zc s).run.stage = s.run.stage := by
  unfold hostTurn; split <;> simp
@[simp] theorem readDue_tLock (s : State) : (readDue s).run.tLock = s.run.tLock := by rw [readDue_run]
@[simp] theorem hostTurn_tLock (zc : Bool) (s : State) : (hostTurn zc s).run.tLock = s.run.tLock := by
  unfold hostTurn; split <;> simp
@[simp] theorem readDue_freshStart (s : State) : (readDue s).run.freshStart = s.run.freshStart := by rw [readDue_run]
@[simp] theorem hostTurn_freshStart (zc : Bool) (s : State) : (hostTurn zc s).run.freshStart = s.run.freshStart := by
  unfold hostTurn; split <;> simp
@[simp] theorem readDue_freshRcv (s : State) : (readDue s).run.freshRcv = s.run.freshRcv := by rw [readDue_run]
@[simp] theorem hostTurn_freshRcv (zc : Bool) (s : State) : (hostTurn zc s).run.freshRcv = s.run.freshRcv := by
  unfold hostTurn; split <;> simp
@[simp] theorem readDue_freshRead (s : State) : (readDue s).run.freshRead = s.run.freshRead := by rw [readDue_run]
@[simp] theorem hostTurn_freshRead (zc : Bool) (s : State) : (hostTurn zc s).run.freshRead = s.run.freshRead := by
  unfold hostTurn; split <;> simp
@[simp] theorem readDue_freshLock (s : State) : (readDue s).run.freshLock = s.run.freshLock := by rw [readDue_run]
@[simp] theorem hostTurn_freshLock (zc : Bool) (s : State) : (hostTurn zc s).run.freshLock = s.run.freshLock := by
  unfold hostTurn; split <;> simp
@[simp] theorem readDue_picks (s : State) : (readDue s).run.picks = s.run.picks := by rw [readDue_run]
@[simp] theorem hostTurn_picks (zc : Bool) (s : State) : (hostTurn zc s).run.picks = s.run.picks := by
  unfold hostTurn; split <;> simp

/-- Of the actuator it changes the signal and the window's timer only. -/
theorem readDue_pca (s : State) :
    (readDue s).pca = { s.pca with sig := (readDue s).pca.sig, tRead := (readDue s).pca.tRead } := by
  unfold readDue; split <;> rfl

@[simp] theorem readDue_irqEn (s : State) : (readDue s).pca.irqEn = s.pca.irqEn := by rw [readDue_pca]
@[simp] theorem hostTurn_irqEn (zc : Bool) (s : State) : (hostTurn zc s).pca.irqEn = s.pca.irqEn := by
  unfold hostTurn; split <;> simp
@[simp] theorem readDue_table (s : State) : (readDue s).pca.table = s.pca.table := by rw [readDue_pca]
@[simp] theorem hostTurn_table (zc : Bool) (s : State) : (hostTurn zc s).pca.table = s.pca.table := by
  unfold hostTurn; split <;> simp
@[simp] theorem readDue_level (s : State) : (readDue s).pca.level = s.pca.level := by rw [readDue_pca]
@[simp] theorem hostTurn_level (zc : Bool) (s : State) : (hostTurn zc s).pca.level = s.pca.level := by
  unfold hostTurn; split <;> simp
@[simp] theorem readDue_phaseEntry (s : State) : (readDue s).pca.phaseEntry = s.pca.phaseEntry := by rw [readDue_pca]
@[simp] theorem hostTurn_phaseEntry (zc : Bool) (s : State) : (hostTurn zc s).pca.phaseEntry = s.pca.phaseEntry := by
  unfold hostTurn; split <;> simp
@[simp] theorem readDue_width (s : State) : (readDue s).pca.width = s.pca.width := by rw [readDue_pca]
@[simp] theorem hostTurn_width (zc : Bool) (s : State) : (hostTurn zc s).pca.width = s.pca.width := by
  unfold hostTurn; split <;> simp
@[simp] theorem readDue_bypass (s : State) : (readDue s).pca.bypass = s.pca.bypass := by rw [readDue_pca]
@[simp] theorem hostTurn_bypass (zc : Bool) (s : State) : (hostTurn zc s).pca.bypass = s.pca.bypass := by
  unfold hostTurn; split <;> simp
@[simp] theorem readDue_sample (s : State) : (readDue s).pca.sample = s.pca.sample := by rw [readDue_pca]
@[simp] theorem hostTurn_sample (zc : Bool) (s : State) : (hostTurn zc s).pca.sample = s.pca.sample := by
  unfold hostTurn; split <;> simp

/-! ### Counters B and C -/

theorem countC_counts {s : State} (hc : s.pca.cRun = true) (hn : s.pca.cCnt ≠ s.pca.cReload) :
    countC s = { s with pca.cCnt := s.pca.cCnt + 1 } := by
  rw [countC, if_pos hc, if_neg hn]

theorem countC_bPart (s : State) :
    (countC s).pca.bRun = s.pca.bRun ∧ (countC s).pca.bCnt = s.pca.bCnt ∧ (countC s).pca.bLoad = s.pca.bLoad := by
  unfold countC
  split_ifs <;> exact ⟨rfl, rfl, rfl⟩

/-! ### Held commands -/

/-- Several held commands ending on one tick. -/
theorem foldl_cancelHeld_run (hs rest : List Held) (s : State) :
    let t := hs.foldl (fun t h => cancelHeld h rest t) s
    t.run.served = s.run.served ∧ t.run.tLock = s.run.tLock ∧ t.run.pcaReadBlocked = s.run.pcaReadBlocked ∧
      t.run.held = (if hs = [] then s.run.held else rest) ∧
      t.run.stage =
        (if hs.any (fun h => h.caller == .loop) then .record statusRcvTimeout else s.run.stage) ∧
      t.cli.done = s.cli.done := by
  induction hs generalizing s with
  | nil => simp
  | cons x hs ih =>
    obtain ⟨h1, h2, h3, h4, h5, h6⟩ := ih (cancelHeld x rest s)
    refine ⟨h1, h2, h3, ?_, ?_, h6⟩
    · simp only [List.foldl_cons]
      rw [h4]
      simp
    · simp only [List.foldl_cons]
      rw [h5]
      cases hx : x.caller <;> simp [hx, deadlineStage]

theorem heldTimers_cli_done (s : State) : (heldTimers s).cli.done = s.cli.done :=
  (foldl_cancelHeld_run _ _ s).2.2.2.2.2

theorem heldTimers_served (s : State) : (heldTimers s).run.served = s.run.served := (foldl_cancelHeld_run _ _ s).1

/-! ### What the caller of PCA_READ sees through the rest of a step -/

/-- Who is blocked in a PCA_READ is none of the completion's, the lock's, the deadlines' or the slot's business. -/
@[simp] theorem settle_pcaReadBlocked (s : State) : (settle s).run.pcaReadBlocked = s.run.pcaReadBlocked := by
  unfold settle; split <;> [skip; split] <;> simp
@[simp] theorem takeCompletion_pcaReadBlocked (s : State) :
    (takeCompletion s).run.pcaReadBlocked = s.run.pcaReadBlocked := by
  unfold takeCompletion; split_ifs <;> rfl
@[simp] theorem lockTimer_pcaReadBlocked (b : Bool) (s : State) :
    (lockTimer b s).run.pcaReadBlocked = s.run.pcaReadBlocked := by
  unfold lockTimer; split_ifs <;> rfl
theorem foldl_cancelHeld_read (hs rest : List Held) (s : State) :
    let t := hs.foldl (fun t h => cancelHeld h rest t) s
    t.run.pcaReadBlocked = s.run.pcaReadBlocked ∧ t.cmd.r0 = s.cmd.r0 ∧ t.cmd.r1 = s.cmd.r1 := by
  induction hs generalizing s with
  | nil => exact ⟨rfl, rfl, rfl⟩
  | cons h hs ih => exact ih (cancelHeld h rest s)
@[simp] theorem heldTimers_pcaReadBlocked (s : State) : (heldTimers s).run.pcaReadBlocked = s.run.pcaReadBlocked :=
  (foldl_cancelHeld_read _ _ s).1
@[simp] theorem heldTimers_r0 (s : State) : (heldTimers s).cmd.r0 = s.cmd.r0 := (foldl_cancelHeld_read _ _ s).2.1
@[simp] theorem heldTimers_r1 (s : State) : (heldTimers s).cmd.r1 = s.cmd.r1 := (foldl_cancelHeld_read _ _ s).2.2
@[simp] theorem deadlineTimer_pcaReadBlocked (due consume : Bool) (s : State) :
    (deadlineTimer due consume s).run.pcaReadBlocked = s.run.pcaReadBlocked := by
  unfold deadlineTimer; dsimp only; split_ifs <;> simp
@[simp] theorem deadlineTimer_r0 (due consume : Bool) (s : State) :
    (deadlineTimer due consume s).cmd.r0 = s.cmd.r0 := by
  unfold deadlineTimer; dsimp only; split_ifs <;> simp
@[simp] theorem deadlineTimer_r1 (due consume : Bool) (s : State) :
    (deadlineTimer due consume s).cmd.r1 = s.cmd.r1 := by
  unfold deadlineTimer; dsimp only; split_ifs <;> simp
@[simp] theorem countersBC_sample (s : State) : (countersBC s).pca.sample = s.pca.sample := by
  unfold countersBC countC; split_ifs <;> rfl
@[simp] theorem countersBC_sig (s : State) : (countersBC s).pca.sig = s.pca.sig := by
  unfold countersBC countC; split_ifs <;> rfl
theorem readTimer_idle (due : Bool) {s : State} (h : s.run.pcaReadBlocked = false) : readTimer due s = s :=
  if_neg (by simp [h])

end Sys2Proof.Machine
end

