-- ==== Sys2Proof/Laws/Exec.lean ====
section
/-!
SUPPORT. For each meaning, each input and the step, one lemma that says everything it can do: `IfNext P r` says that if
`r` answers a next state then that state has `P`. A claim over every step cites these and unfolds no meaning.
-/
namespace Sys2Proof.Machine

/-- If `r` answers `next t`, then `P t`. -/
def IfNext (P : State → Prop) : Result → Prop
  | .next t => P t
  | .fault _ => True
  | .refused _ => True

variable {P : State → Prop} {s t : State}

@[simp] theorem ifNext_next : IfNext P (.next t) ↔ P t := Iff.rfl
@[simp] theorem ifNext_fault (r : Fault) : IfNext P (.fault r) ↔ True := Iff.rfl
@[simp] theorem ifNext_refused (r : Refusal) : IfNext P (.refused r) ↔ True := Iff.rfl

theorem IfNext.of_eq {r : Result} (h : IfNext P r) (hr : r = .next t) : P t := by
  rw [hr] at h; exact h

theorem ifNext_iff {r : Result} : IfNext P r ↔ ∀ t, r = .next t → P t :=
  ⟨fun h _ => h.of_eq, fun h => by cases r with
    | next t => exact h t rfl
    | fault _ => trivial
    | refused _ => trivial⟩

theorem IfNext.mono {Q : State → Prop} {r : Result} (h : IfNext P r) (hpq : ∀ t, P t → Q t) : IfNext Q r := by
  rw [ifNext_iff] at h ⊢; exact fun t ht => hpq t (h t ht)

@[simp] theorem ifNext_ite (c : Prop) [Decidable c] (a b : Result) :
    IfNext P (if c then a else b) ↔ (c → IfNext P a) ∧ (¬ c → IfNext P b) := by
  split <;> simp [*]

@[simp] theorem ifNext_andThen (f : State → State) (r : Result) :
    IfNext P (andThen f r) ↔ IfNext (fun t => P (f t)) r := by
  cases r <;> rfl

/-! ### Shared operations -/

@[simp] theorem submitRead_ifNext (c : Caller) (tmo : Word) (fresh : Bool) :
    IfNext P (submitRead c tmo fresh s) ↔
      (0 < tmo.toInt → ¬ (s.cli.done = true ∧ s.run.served ≠ some c.other) →
        (s.swd.busy = true ∨ s.cli.done = true →
          P { s with run.held := s.run.held ++ [⟨c, tmo, fresh⟩] }) ∧
        (s.swd.busy = false → s.cli.done = false →
          P { acceptRead c tmo s with run.freshStart := fresh, run.freshRcv := fresh })) := by
  simp only [submitRead, ifNext_ite, ifNext_refused, ifNext_next, Int.not_le, not_or, Bool.not_eq_true, and_imp,
    implies_true, true_and]

@[simp] theorem setLevel_ifNext (v : Word) :
    IfNext P (setLevel v s) ↔ (s.pca.irqEn = true →
      (v.toInt ≤ 0 → P { s with pca.level := v, cmd.status := statusOk, pca.bypass := false, pca.width := 0 }) ∧
      (0 < v.toInt → (s.conf.pcaMax : Int) ≤ v.toInt →
        P { s with pca.level := v, cmd.status := statusOk, pca.bypass := true, pca.width := 0 }) ∧
      (0 < v.toInt → v.toInt < (s.conf.pcaMax : Int) →
        P { s with pca.level := v, cmd.status := statusOk, pca.bypass := false, pca.width := s.conf.pcaPulseW
                   pca.phaseEntry := tableEntry s v.toInt.toNat })) := by
  cases h : s.pca.irqEn
  · simp [setLevel, h]
  · simp [setLevel, h]; tauto

@[simp] theorem pidStep_ifNext (input sp ts : Word) :
    IfNext P (pidStep input sp ts s) ↔
      (s.pid.hasPrev = false → P { s with
        pid.prevError := wrap32 (sp.toInt - input.toInt), pid.prevTs := ts, pid.hasPrev := true
        cmd.r0 := wrap32 (pidFirstOut s.conf.fxFrac s.pid (sp.toInt - input.toInt)), cmd.status := statusOk }) ∧
      (s.pid.hasPrev = true → 0 ≤ pidDt s.pid ts → ∀ i,
        i = pidIntegral s.conf.fxFrac s.pid (sp.toInt - input.toInt) (pidDt s.pid ts) → P { s with
        pid.prevError := wrap32 (sp.toInt - input.toInt), pid.prevTs := ts, pid.hasPrev := true, pid.integral := i
        cmd.r0 := wrap32 (pidLaterOut s.conf.fxFrac s.pid (sp.toInt - input.toInt) (pidDt s.pid ts) i)
        cmd.status := statusOk }) := by
  simp only [pidStep, ifNext_ite, ifNext_refused, ifNext_next, Int.not_lt, Bool.not_eq_false, forall_eq,
    implies_true, true_and]

/-! ### Meanings -/

@[simp] theorem execFxAdd_ifNext : IfNext P (execFxAdd s) ↔ P (putResult (wrap32 (fxAddExact (opA0 s) (opA1 s))) s) := Iff.rfl
@[simp] theorem execFxSub_ifNext : IfNext P (execFxSub s) ↔ P (putResult (wrap32 (fxSubExact (opA0 s) (opA1 s))) s) := Iff.rfl
@[simp] theorem execFxMul_ifNext :
    IfNext P (execFxMul s) ↔ P (putResult (wrap32 (fxMulWide s.conf.fxFrac (opA0 s) (opA1 s))) s) := Iff.rfl
@[simp] theorem execFxDiv_ifNext :
    IfNext P (execFxDiv s) ↔ (opA1 s = 0 → P (putStatus statusFxDivZero s)) ∧
      (opA1 s ≠ 0 → P (putResult (wrap32 (fxDivWide s.conf.fxFrac (opA0 s) (opA1 s))) s)) := by
  simp [execFxDiv]
@[simp] theorem execFxFromInt_ifNext :
    IfNext P (execFxFromInt s) ↔ P (putResult (wrap32 (fxFromIntExact s.conf.fxFrac (opA0 s))) s) := Iff.rfl
@[simp] theorem execFxToInt_ifNext : IfNext P (execFxToInt s) ↔ P (putResult (wrap32 (asr (opA0 s) s.conf.fxFrac)) s) := Iff.rfl
@[simp] theorem execFxClamp_ifNext :
    IfNext P (execFxClamp s) ↔ P (putResult (wrap32 (clamp (opA0 s) (opA1 s) (opA2 s))) s) := Iff.rfl
@[simp] theorem execFxParse_ifNext :
    IfNext P (execFxParse s) ↔
      (∀ v, parseExact s.conf.fxFrac s.cmd.str = some v → P (putResult (wrap32 v) s)) ∧
      (parseExact s.conf.fxFrac s.cmd.str = none → P (putStatus statusFxParseError s)) := by
  unfold execFxParse; split <;> simp [*]
@[simp] theorem execFxFormat_ifNext :
    IfNext P (execFxFormat s) ↔ P (putStatus statusOk (putString (formatFx s.conf.fxFrac s.conf.fxFmtDigits (opA0 s)) s)) := Iff.rfl
@[simp] theorem execSwdStartDone_ifNext :
    IfNext P (execSwdStartDone s) ↔ (s.swd.phase = .startPulse → P { startDone s with swd.tStart := 0 }) := by
  simp [execSwdStartDone]
@[simp] theorem execSwdConsume_ifNext :
    IfNext P (execSwdConsume s) ↔ (Waiting s → s.swd.sig = true → P (consumeSample s)) := by
  simp only [execSwdConsume, ifNext_ite, ifNext_refused, ifNext_next, implies_true, and_true, and_imp]
@[simp] theorem execSwdWaitExpire_ifNext :
    IfNext P (execSwdWaitExpire s) ↔ (Waiting s → s.swd.sig = false → P (swdFinish statusIrqTimeout s)) := by
  simp only [execSwdWaitExpire, ifNext_ite, ifNext_refused, ifNext_next, implies_true, and_true, and_imp]
@[simp] theorem execSwdIrqCapture_ifNext (p q : Half) :
    IfNext P (execSwdIrqCapture p q s) ↔ (p ≠ 0 → s.swd.irqEn = true → P (storeSample (packSample p q) s)) := by
  simp only [execSwdIrqCapture, ifNext_ite, ifNext_refused, ifNext_next, implies_true, and_true, true_and, ne_eq]
@[simp] theorem execSwdIrqCapto_ifNext :
    IfNext P (execSwdIrqCapto s) ↔ (s.swd.irqEn = true → P (storeSample (packSample 0 0) s)) := by
  simp [execSwdIrqCapto]
@[simp] theorem execSwdDeadline_ifNext :
    IfNext P (execSwdDeadline s) ↔ (s.swd.busy = true → s.cli.done = false → P (cancelServed s)) ∧
      (¬ (s.swd.busy = true ∧ s.cli.done = false) → ∀ h hs, s.run.held = h :: hs → P (cancelHeld h hs s)) := by
  unfold execSwdDeadline
  split
  · simp [*]
  · rename_i h
    cases hh : s.run.held <;> simp [h] <;> (intros; exact absurd ⟨by assumption, by assumption⟩ h)
@[simp] theorem runSymbol_ifNext (sym : Symbol) :
    IfNext P (runSymbol sym s) ↔ (Waiting s → s.swd.sig = true → currentSymbol s = sym → P (consumeSample s)) := by
  simp only [runSymbol, ifNext_ite, ifNext_refused, ifNext_next, implies_true, and_true, and_imp]
  constructor
  · intro h a b c; rw [consumeSample, c]; exact h a b c
  · intro h a b c; have := h a b c; rw [consumeSample, c] at this; exact this
@[simp] theorem execPcaInit_ifNext :
    IfNext P (execPcaInit s) ↔ (s.pca.irqEn = false → phaseTableOk s.conf = true → P { s with
      pca.table := s.conf.pcaTable
      pca.level := 0, pca.phaseEntry := s.conf.pcaTable[0]?.getD 0, pca.width := 0, pca.bypass := false
      pca.irqEn := true, cmd.status := statusOk }) := by
  simp [execPcaInit]
@[simp] theorem execPcaRead_ifNext :
    IfNext P (execPcaRead s) ↔ P { s with
      pca.sig := false, pca.tRead := s.conf.tPcaRead
      run.pcaReadBlocked := true, run.freshRead := true } := Iff.rfl
@[simp] theorem execPcaIrqZc_ifNext (p q : Half) :
    IfNext P (execPcaIrqZc p q s) ↔ (s.pca.irqEn = true → P (zeroCrossing p q s)) := by
  simp [execPcaIrqZc]
@[simp] theorem execPcaBExpire_ifNext : IfNext P (execPcaBExpire s) ↔ (s.pca.bRun = true → P (bExpire s)) := by
  simp [execPcaBExpire]
@[simp] theorem execPcaCReload_ifNext : IfNext P (execPcaCReload s) ↔ (s.pca.cRun = true → P (cReload s)) := by
  simp [execPcaCReload]
@[simp] theorem execPcaReadExpire_ifNext :
    IfNext P (execPcaReadExpire s) ↔ (s.run.pcaReadBlocked = true → s.pca.sig = false → P (readExpires s)) := by
  simp [execPcaReadExpire]
@[simp] theorem execPidSetCoef_ifNext : IfNext P (execPidSetCoef s) ↔ P (setCoef s.cmd.a0 s.cmd.a1 s.cmd.a2 s) := Iff.rfl
@[simp] theorem execPidSetLimits_ifNext : IfNext P (execPidSetLimits s) ↔ P (setLimits s.cmd.a0 s.cmd.a1 s) := Iff.rfl
@[simp] theorem execLoopTick_ifNext :
    IfNext P (execLoopTick s) ↔ (s.run.stage = .idle → (s.cfgLock = false → P (lockAcquired s)) ∧
      (s.cfgLock = true → s.conf.tLock = 0 → P (skipConfig s)) ∧
      (s.cfgLock = true → s.conf.tLock ≠ 0 → P { s with
        run.stage := .acquire, run.tLock := s.conf.tLock, run.freshLock := true })) := by
  simp [execLoopTick]
  tauto

@[simp] theorem execSwdRead_ifNext : IfNext P (execSwdRead s) ↔ IfNext P (submitRead .host s.cmd.a0 true s) := Iff.rfl
@[simp] theorem execPcaSet_ifNext : IfNext P (execPcaSet s) ↔ IfNext P (setLevel s.cmd.a0 s) := Iff.rfl
@[simp] theorem execPidCompute_ifNext :
    IfNext P (execPidCompute s) ↔ IfNext P (pidStep s.cmd.a0 s.cmd.a1 s.cmd.a2 s) := Iff.rfl
@[simp] theorem execSymInvalid_ifNext : IfNext P (execSymInvalid s) ↔ IfNext P (runSymbol .invalid s) := Iff.rfl
@[simp] theorem execSymStart_ifNext : IfNext P (execSymStart s) ↔ IfNext P (runSymbol .start s) := Iff.rfl
@[simp] theorem execSymBit0_ifNext : IfNext P (execSymBit0 s) ↔ IfNext P (runSymbol .bit0 s) := Iff.rfl
@[simp] theorem execSymBit1_ifNext : IfNext P (execSymBit1 s) ↔ IfNext P (runSymbol .bit1 s) := Iff.rfl
@[simp] theorem execSymTimeout_ifNext : IfNext P (execSymTimeout s) ↔ IfNext P (runSymbol .timeout s) := Iff.rfl

/-! ### The other inputs -/

@[simp] theorem heldDeadline_ifNext (k : Nat) :
    IfNext P (heldDeadline k s) ↔ (∀ h, s.run.held[k]? = some h → P (cancelHeld h (s.run.held.eraseIdx k) s)) := by
  unfold heldDeadline; cases h : s.run.held[k]? <;> simp
@[simp] theorem hostCompletes_ifNext :
    IfNext P (hostCompletes s) ↔ (s.run.served = some .host → s.cli.done = true → P (takeCompletion s)) := by
  simp [hostCompletes]
@[simp] theorem pcaCompletes_ifNext :
    IfNext P (pcaCompletes s) ↔ (s.run.pcaReadBlocked = true → s.pca.sig = true → P (completeRead s)) := by
  simp [pcaCompletes]
@[simp] theorem lockExpires_ifNext :
    IfNext P (lockExpires s) ↔ (s.run.stage = .acquire → s.cfgLock = true → P (skipConfig s)) := by
  simp [lockExpires]
@[simp] theorem lockTaken_ifNext :
    IfNext P (lockTaken s) ↔ (s.cfgLock = false → P { s with cfgLock := true }) := by
  simp [lockTaken]

/-- One operation of the LOOP task: by the stage it is in. -/
@[simp] theorem loopStep_ifNext :
    IfNext P (loopStep s) ↔
      (s.run.stage = .acquire → s.cfgLock = false → P (lockAcquired s)) ∧
      (s.run.stage = .snapshot → P { s with loop.cfg := s.ext.cfg, run.stage := .release }) ∧
      (s.run.stage = .release → P { s with cfgLock := false, run.stage := .coef }) ∧
      (s.run.stage = .coef → P { setCoef s.loop.cfg.kp s.loop.cfg.ki s.loop.cfg.kd s with run.stage := .limits }) ∧
      (s.run.stage = .limits → P { setLimits s.loop.cfg.low s.loop.cfg.high s with run.stage := .read }) ∧
      (s.run.stage = .read → IfNext P (submitRead .loop s.conf.tRcv false { s with run.stage := .waiting })) ∧
      (s.run.stage = .waiting → s.run.served = some .loop → s.cli.done = true →
        P { takeCompletion s with run.stage := .record s.cli.err }) ∧
      (∀ st, s.run.stage = .record st → P { recordReading st s with run.stage := .compute st }) ∧
      (∀ st, s.run.stage = .compute st → s.loop.cfg.manual = false → s.loop.haveReading = true →
        IfNext (fun t => P { t with run.stage := .set st t.cmd.r0 })
          (pidStep (loopInput s) (loopSetpoint s) s.ext.now s)) ∧
      (∀ st, s.run.stage = .compute st → ¬ (s.loop.cfg.manual = false ∧ s.loop.haveReading = true) →
        P { s with run.stage := .finish st }) ∧
      (∀ st out, s.run.stage = .set st out →
        IfNext (fun t => P { t with run.stage := .finish st }) (setLevel (loopLevel s.conf.fxFrac out) s)) ∧
      (∀ st, s.run.stage = .finish st → P { s with cmd.status := st, run.stage := .idle }) := by
  unfold loopStep
  cases h : s.run.stage with
  | compute st =>
    simp only [loopCompute]
    split
    · rename_i hc
      cases pidStep (loopInput s) (loopSetpoint s) s.ext.now s <;> simp [hc]
    · rename_i hc; simp [hc]
      exact fun _ a b => absurd ⟨a, b⟩ hc
  | _ => simp

/-! ### Dispatch and the step -/

@[simp] theorem issueCommand_ifNext (op : Byte) :
    IfNext P (issueCommand op s) ↔
      (∀ i, decode (.command op) = .ok i → IfNext P (exec i { s with cmd.op := op })) ∧
      (∀ e, decode (.command op) = .error e → P (putStatus statusBadOp { s with cmd.op := op })) := by
  unfold issueCommand; cases h : decode (.command op) <;> simp

/-- Where the host's completion of PCA_READ can run, it is what runs before a zero crossing. -/
theorem pcaCompletes_readDue {s t : State} (h : pcaCompletes s = .next t) : t = readDue s := by
  unfold pcaCompletes at h
  split at h
  · rename_i hc; cases h; exact (if_pos hc).symm
  · cases h

/-- What holds of a state, and of the state after a completion that is due, holds before every event. -/
theorem beforeEvent_ind (i : Instr) (h : P s) (h2 : P (readDue s)) : P (beforeEvent i s) := by
  cases i <;> assumption

/-- Only a zero crossing, and only with a completion of PCA_READ due, has anything run before it. -/
theorem beforeEvent_eq {i : Instr} {s : State}
    (h : s.run.pcaReadBlocked = true → s.pca.sig = true → ∀ p q, i ≠ .pcaIrqZc p q) : beforeEvent i s = s := by
  cases i with
  | pcaIrqZc p q => exact if_neg (fun hc => h hc.1 hc.2 p q rfl)
  | _ => rfl

@[simp] theorem raiseEvent_ifNext (code : Byte) (payload : Word) :
    IfNext P (raiseEvent code payload s) ↔
      ∀ i, decode (.event code payload) = .ok i → IfNext P (exec i (beforeEvent i s)) := by
  unfold raiseEvent
  cases h : decode (.event code payload) with
  | ok i => simp
  | error e => cases e <;> simp

/-- A step: nothing where the trace is empty, else the input at its head and then the acceptance of a held read. -/
theorem step_ifNext :
    IfNext P (step s) ↔ (s.trace = [] → P s) ∧
      ∀ x rest, s.trace = x :: rest → IfNext (fun t => P (settle t)) (runInput x { s with trace := rest }) := by
  unfold step
  cases h : s.trace <;> simp [stepInput]

end Sys2Proof.Machine
end

