-- ==== Sys2Proof/Laws/Fxp.lean ====
section
/-!
SUPPORT. The strings of FX_PARSE and FX_FORMAT (40_fixed_point.md R118, R119): digits and characters, the cut at the
point, and what the decimal printers print.
-/
namespace Sys2Proof.Machine

theorem digitChar_toNat {d : Nat} (h : d < 10) : (digitChar d).toNat = 48 + d := by
  revert h; revert d; decide

theorem digitOf_digitChar {d : Nat} (h : d < 10) : digitOf (digitChar d) = some d := by
  rw [digitOf, digitChar_toNat h, if_pos (by omega)]; simp

theorem digitOf_some {c : Char} {d : Nat} (h : digitOf c = some d) : d < 10 ∧ c = digitChar d := by
  unfold digitOf at h
  split at h
  · rename_i hc
    injection h with h
    subst h
    refine ⟨by omega, ?_⟩
    simp only [digitChar]
    rw [show 48 + (c.toNat - 48) = c.toNat by omega]
    exact (Char.ofNat_toNat c).symm
  · cases h

theorem digitsOf_map {ds : List Nat} (h : ∀ d ∈ ds, d < 10) : digitsOf (ds.map digitChar) = some ds := by
  induction ds with
  | nil => rfl
  | cons d ds ih =>
    have h1 := digitOf_digitChar (h d (by simp))
    have h2 := ih (fun x hx => h x (by simp [hx]))
    simp only [List.map_cons, digitsOf, h1, h2]

theorem digitsOf_some {cs : List Char} {ds : List Nat} (h : digitsOf cs = some ds) :
    (∀ d ∈ ds, d < 10) ∧ cs = ds.map digitChar := by
  induction cs generalizing ds with
  | nil => simp [digitsOf] at h; subst h; simp
  | cons c cs ih =>
    simp only [digitsOf] at h
    split at h
    · rename_i d ds' h1 h2
      injection h with h; subst h
      obtain ⟨a, b⟩ := digitOf_some h1
      obtain ⟨a', b'⟩ := ih h2
      simp [a, ← b, ← b']
      exact a'
    · cases h

theorem splitPoint_none {cs : List Char} {a : List Char} (h : splitPoint cs = (a, none)) : cs = a := by
  induction cs generalizing a with
  | nil => simp [splitPoint] at h; exact h.symm
  | cons c cs ih =>
    simp only [splitPoint] at h
    split at h
    · simp at h
    · injection h with h1 h2
      rw [← h1, ← ih (a := (splitPoint cs).1) (by rw [← h2])]

theorem splitPoint_some {cs a b : List Char} (h : splitPoint cs = (a, some b)) : cs = a ++ '.' :: b := by
  induction cs generalizing a with
  | nil => simp [splitPoint] at h
  | cons c cs ih =>
    simp only [splitPoint] at h
    split at h
    · injection h with h1 h2; injection h2 with h2; subst h1 h2; simp [*]
    · injection h with h1 h2
      have := ih (a := (splitPoint cs).1) (by rw [← h2])
      rw [← h1, List.cons_append, ← this]

theorem digitChar_ne {d : Nat} (h : d < 10) : digitChar d ≠ '.' ∧ digitChar d ≠ '-' ∧ digitChar d ≠ '+' := by
  revert h; revert d; decide

theorem splitPoint_digits {ds : List Nat} (h : ∀ d ∈ ds, d < 10) (r : List Char) :
    splitPoint (ds.map digitChar ++ r) = (ds.map digitChar ++ (splitPoint r).1, (splitPoint r).2) := by
  induction ds with
  | nil => rfl
  | cons d ds ih =>
    have := (digitChar_ne (h d (by simp))).1
    simp [splitPoint, this, ih (fun x hx => h x (by simp [hx]))]

theorem decimalAux_spec (fuel n : Nat) (acc : List Char) (h : n < fuel) :
    ∃ ds : List Nat, decimalAux fuel n acc = ds.map digitChar ++ acc ∧ ds ≠ [] ∧ (∀ d ∈ ds, d < 10) ∧
      digitsValue ds = n ∧ (ds.length = 1 ∨ ds.head? ≠ some 0) := by
  induction fuel generalizing n acc with
  | zero => omega
  | succ fuel ih =>
    simp only [decimalAux]
    split
    · exact ⟨[n], by simp, by simp, by simp [*], by simp [digitsValue], Or.inl rfl⟩
    · obtain ⟨ds, h1, h2, h3, h4, h5⟩ := ih (n / 10) (digitChar (n % 10) :: acc) (by omega)
      refine ⟨ds ++ [n % 10], by simp [h1], by simp, ?_, ?_, ?_⟩
      · intro d hd
        simp at hd
        rcases hd with hd | hd
        · exact h3 d hd
        · omega
      · simp only [digitsValue, List.foldl_append, List.foldl_cons, List.foldl_nil] at h4 ⊢
        rw [h4]; omega
      · right
        cases ds with
        | nil => exact absurd rfl h2
        | cons d ds =>
          intro h0
          simp at h0; subst h0
          rcases h5 with h5 | h5
          · simp at h5; subst h5; simp [digitsValue] at h4; omega
          · exact h5 rfl

theorem paddedDigits_spec (d n : Nat) (acc : List Char) :
    ∃ ds : List Nat, paddedDigits d n acc = ds.map digitChar ++ acc ∧ ds.length = d ∧ (∀ x ∈ ds, x < 10) ∧
      digitsValue ds = n % 10 ^ d := by
  induction d generalizing n acc with
  | zero => exact ⟨[], by simp [paddedDigits, digitsValue, Nat.mod_one]⟩
  | succ d ih =>
    obtain ⟨ds, h1, h2, h3, h4⟩ := ih (n / 10) (digitChar (n % 10) :: acc)
    refine ⟨ds ++ [n % 10], by simp [paddedDigits, h1], by simp [h2], ?_, ?_⟩
    · intro x hx
      simp at hx
      rcases hx with hx | hx
      · exact h3 x hx
      · omega
    · simp only [digitsValue, List.foldl_append, List.foldl_cons, List.foldl_nil] at h4 ⊢
      rw [h4, pow_succ', Nat.mod_mul]; omega

end Sys2Proof.Machine
end

