-- ==== Sys2Proof/Laws/Invariants.lean ====
section
/-!
SUPPORT. Each shared operation keeps the invariants of Safety.lean.
-/
namespace Sys2Proof.Machine

/-! ### The decoder -/

theorem SwdInv.congr {s t : State} (h : SwdInv s) (h1 : t.swd = s.swd) (h2 : t.cli.done = s.cli.done)
    (h3 : t.run.served = s.run.served) (h4 : t.conf = s.conf := by first | rfl | simp) : SwdInv t := by
  obtain ⟨o, a, b, c, d, e, f, g, i, j, k, l, m⟩ := h
  constructor <;> simp only [Waiting, h1, h2, h3, h4] <;> assumption

theorem SwdInv.waiting_busy {s : State} (h : SwdInv s) (hw : Waiting s) : s.swd.busy = true :=
  h.busy_iff.mpr (by rcases hw with hw | hw <;> simp [hw])

theorem SwdInv.busy_done {s : State} (h : SwdInv s) (hb : s.swd.busy = true) : s.cli.done = false := by
  cases hd : s.cli.done with
  | false => rfl
  | true => have := h.done_free hd; rw [hb] at this; cases this

theorem SwdInv.finish {s : State} (h : s.run.served.isSome = true) (hn : 0 < s.conf.nBits)
    (hb : s.swd.bit ≤ s.conf.nBits) (hd : s.swd.lineDrive = false) (e : Byte) : SwdInv (swdFinish e s) := by
  constructor <;> simp [Waiting, h, hn, hb, hd]

theorem SwdInv.cancel {s : State} (h : SwdInv s) (hb : s.swd.busy = true) : SwdInv (cancelServed s) := by
  constructor <;> simp [Waiting, h.bits_pos, h.bit_le, h.busy_done hb]

theorem SwdInv.accept {s : State} (h : SwdInv s) (hb : s.swd.busy = false) (hd : s.cli.done = false) (c : Caller) (t : Word) : SwdInv (acceptRead c t s) := by
  have hp : s.swd.phase = .idle := by
    by_contra hp; have := h.busy_iff.mpr hp; rw [hb] at this; cases this
  have hi : s.swd.irqEn = false := by
    cases hi : s.swd.irqEn with
    | false => rfl
    | true => have := h.irq_iff.mp hi; simp [Waiting, hp] at this
  have ht : s.swd.tWait = 0 := by
    by_contra ht; have := h.wait_timer ht; simp [Waiting, hp] at this
  constructor <;> simp [Waiting, h.bits_pos, hi, hd, ht]

theorem SwdInv.startDone {s : State} (h : SwdInv s) (hp : s.swd.phase = .startPulse) (ht : s.swd.tStart = 0) : SwdInv (startDone s) := by
  have hb : s.swd.busy = true := h.busy_iff.mpr (by simp [hp])
  have := h.buf_zero (Or.inl hp)
  have := h.served_iff
  constructor <;> simp_all [Waiting, h.bits_pos, h.bit_le]
  exact h.busy_done hb

theorem SwdInv.waiting_facts {s : State} (h : SwdInv s) (hw : Waiting s) :
    s.swd.busy = true ∧ s.swd.irqEn = true ∧ s.swd.lineDrive = false ∧ s.cli.done = false ∧ s.run.served.isSome = true ∧ s.swd.tStart = 0 := by
  have hb := h.waiting_busy hw
  refine ⟨hb, h.irq_iff.mpr hw, ?_, h.busy_done hb, h.served_iff.mpr (Or.inl hb), ?_⟩
  · cases hd : s.swd.lineDrive with
    | false => rfl
    | true => have := h.drive_iff.mp hd; rcases hw with hw | hw <;> simp [hw] at this
  · by_contra hd; have := h.start_timer hd; rcases hw with hw | hw <;> simp [hw] at this

theorem SwdInv.takeStart {s : State} (h : SwdInv s) (hp : s.swd.phase = .waitStart) : SwdInv (takeStart s) := by
  obtain ⟨a, b, c, d, e, f⟩ := h.waiting_facts (Or.inl hp)
  have hz := h.buf_zero (Or.inr hp)
  have : ClearFrom Packet.zero 0 := by
    intro i _ hi
    exact packetBit_zero hi
  constructor <;> simp [Waiting, h.bits_pos, a, b, c, d, e, f, hz, this]

theorem SwdInv.takeBit {s : State} (h : SwdInv s) (hp : s.swd.phase = .waitBit) (bit : Bool) : SwdInv (takeBit bit s) := by
  obtain ⟨a, b, c, d, e, f⟩ := h.waiting_facts (Or.inr hp)
  have hl := h.bit_lt hp
  have hc := h.buf_clear hp
  unfold Sys2Proof.Machine.takeBit
  dsimp only
  split
  · exact SwdInv.finish (by exact e) (by exact h.bits_pos) (by simpa using hl) (by exact c) _
  · rename_i hne
    have hc' : ClearFrom (storeBit s.swd.buf s.swd.bit bit) (s.swd.bit + 1) := by
      intro i hi1 hi2
      rw [packetBit_storeBit _ _ hi2, if_neg (by omega)]
      exact hc i (by omega) hi2
    constructor <;> simp [Waiting, h.bits_pos, a, b, c, d, e, f, hp, hc'] <;> omega

theorem SwdInv.sig {s : State} (h : SwdInv s) (b : Bool) : SwdInv { s with swd.sig := b } := by
  obtain ⟨o, a, b, c, d, e, f, g, i, j, k, l, m⟩ := h
  constructor <;> simp only [Waiting] at * <;> assumption

theorem SwdInv.storeSample {s : State} (h : SwdInv s) (w : Word) : SwdInv (storeSample w s) := by
  obtain ⟨o, a, b, c, d, e, f, g, i, j, k, l, m⟩ := h
  constructor <;> simp only [Waiting, storeSample_swd, storeSample_cli, storeSample_run] at * <;> assumption

theorem SwdInv.consume {s : State} (h : SwdInv s) (hw : Waiting s) : SwdInv (consumeSample s) := by
  obtain ⟨a, b, c, d, e, f⟩ := h.waiting_facts hw
  have h' := h.sig false
  have hnb : s.swd.phase = .waitStart → classifyStart s.conf s.swd.sample ≠ .bit0 ∧ classifyStart s.conf s.swd.sample ≠ .bit1 := by
    intro _; unfold classifyStart; split_ifs <;> simp
  have hns : classifyBit s.conf s.swd.sample ≠ .start := by
    unfold classifyBit; split_ifs <;> simp
  unfold consumeSample
  cases hc : currentSymbol s <;> simp only [symbolEffect]
  · exact SwdInv.finish e h.bits_pos h.bit_le c _
  · apply h'.takeStart
    by_contra hp
    have hp : s.swd.phase ≠ .waitStart := hp
    simp [currentSymbol, hp] at hc; exact hns hc
  · apply h'.takeBit
    rcases hw with hp | hp
    · simp [currentSymbol, hp] at hc; exact absurd hc (hnb hp).1
    · exact hp
  · apply h'.takeBit
    rcases hw with hp | hp
    · simp [currentSymbol, hp] at hc; exact absurd hc (hnb hp).2
    · exact hp
  · exact SwdInv.finish e h.bits_pos h.bit_le c _

theorem SwdInv.take {s : State} (h : SwdInv s) (hd : s.cli.done = true) : SwdInv (takeCompletion s) := by
  have hb := h.done_free hd
  obtain ⟨o, a, b, c, d, e, f, g, i, j, k, l, m⟩ := h
  have : SwdInv { s with cli.done := false, run.served := none } := by
    constructor <;> simp only [Waiting] at *  <;> first | assumption | simp [hb]
  unfold takeCompletion
  split
  · obtain ⟨o, a, b, c, d, e, f, g, i, j, k, l, m⟩ := this
    constructor <;> simp only [Waiting] at * <;> assumption
  · exact this.congr rfl rfl rfl

theorem SwdInv.submit {s : State} (h : SwdInv s) (c : Caller) (t : Word) (f : Bool) : IfNext SwdInv (submitRead c t f s) := by
  rw [submitRead_ifNext]
  exact fun _ _ => ⟨fun _ => h.congr rfl rfl rfl, fun hb hd => (h.accept hb hd c t).congr rfl rfl rfl⟩

theorem SwdInv.settle {s : State} (h : SwdInv s) : SwdInv (settle s) := by
  unfold Sys2Proof.Machine.settle
  split
  · exact h
  · rename_i hc
    simp only [not_or, Bool.not_eq_true] at hc
    split
    · exact h
    · exact (h.accept hc.1 hc.2 _ _).congr rfl rfl rfl
    · exact (h.accept hc.1 hc.2 _ _).congr rfl rfl rfl

theorem SwdInv.captureUnit {s : State} (h : SwdInv s) (line : Bool) : SwdInv (captureUnit line s) := by
  unfold Sys2Proof.Machine.captureUnit
  have same : ∀ (s t : State), SwdInv s → t.swd = s.swd → t.cli = s.cli → t.run = s.run → t.conf = s.conf → SwdInv t :=
    fun s t h h1 h2 h3 h4 => h.congr h1 (by rw [h2]) (by rw [h3]) h4
  refine same (if s.swd.irqEn = true then captureTimeout (captureEdge line (s.cap.cnt + 1) s) else s) _ ?_ rfl rfl rfl rfl
  split
  · have h1 : SwdInv (captureEdge line (s.cap.cnt + 1) s) := by
      unfold captureEdge
      split_ifs
      · exact h.congr rfl rfl rfl
      · exact (h.storeSample _).congr rfl rfl rfl
      · exact h.congr rfl rfl rfl
      · exact h.congr rfl rfl rfl
    unfold captureTimeout
    split_ifs
    · exact (h1.storeSample _).congr rfl rfl rfl
    · exact h1
  · exact h

theorem SwdInv.countTimers {s : State} (h : SwdInv s) : SwdInv (countTimers s) := by
  obtain ⟨o, a, b, c, d, e, f, g, i, j, k, l, m⟩ := h
  constructor <;> simp only [Waiting, countTimers_swd, countTimers_cli, countTimers_run] at * <;> first | assumption | skip
  · exact fun h => k (countDown_ne h)
  · exact fun h => l (countDown_ne h)
  · exact fun h => m (countDown_ne h)

theorem SwdInv.startTimer {s : State} (h : SwdInv s) (b : Bool) (hb : b = true → s.swd.tStart = 0) : SwdInv (startTimer b s) := by
  unfold Sys2Proof.Machine.startTimer
  split_ifs with hc
  · exact h.startDone hc.2 (hb hc.1)
  · exact h

theorem SwdInv.waitTimer {s : State} (h : SwdInv s) (b : Bool) : SwdInv (waitTimer b s) := by
  unfold Sys2Proof.Machine.waitTimer
  split_ifs with hc
  · obtain ⟨a, b, c, d, e, f⟩ := h.waiting_facts hc.2.1
    exact SwdInv.finish e h.bits_pos h.bit_le c _
  · exact h

theorem sequencerTurn_inv {s : State} (h : SwdInv s) (c : Bool) : SwdInv (sequencerTurn c s) := by
  unfold sequencerTurn
  split_ifs with hc
  · exact h.consume hc.2.1
  · exact h

theorem SwdInv.deadlineTimer {s : State} (h : SwdInv s) (b c : Bool) : SwdInv (deadlineTimer b c s) := by
  have h1 := sequencerTurn_inv h c
  unfold Sys2Proof.Machine.deadlineTimer
  dsimp only
  split_ifs with hc
  · exact h.cancel hc.2.1
  · exact h1

/-! ### The actuator -/

theorem PcaInv.congr {s t : State} (h : PcaInv s) (h1 : t.conf = s.conf) (h2 : t.pca = s.pca)
    (h3 : t.run.pcaReadBlocked = s.run.pcaReadBlocked) : PcaInv t := by
  obtain ⟨a, b, c, d, e, f, g⟩ := h
  constructor <;> simp only [h1, h2, h3] <;> assumption

theorem PcaInv.same {s t : State} (h : PcaInv s) (h1 : t.conf = s.conf)
    (h2 : t.pca.irqEn = s.pca.irqEn) (h4 : t.pca.table = s.pca.table) (h5 : t.pca.phaseEntry = s.pca.phaseEntry)
    (h6 : t.pca.width = s.pca.width) (h7 : t.pca.bypass = s.pca.bypass)
    (h8 : t.pca.bRun = true → s.pca.irqEn = true) (h9 : t.pca.cRun = true → s.pca.irqEn = true)
    (h3 : t.pca.tRead ≠ 0 → t.run.pcaReadBlocked = true) : PcaInv t := by
  obtain ⟨a, b, c, d, e, f, g⟩ := h
  refine ⟨?_, ?_, ?_, ?_, ?_, ?_, h3⟩ <;> simp only [h1, h2, h4, h5, h6, h7]
  any_goals assumption
  intro hi
  obtain ⟨f1, f2, f3, f4⟩ := f hi
  refine ⟨f1, f2, ?_, ?_⟩
  · cases hb : t.pca.bRun with
    | false => rfl
    | true => rw [hi] at h8; cases h8 hb
  · cases hb : t.pca.cRun with
    | false => rfl
    | true => rw [hi] at h9; cases h9 hb

theorem PcaInv.bRun_irq {s : State} (h : PcaInv s) (hb : s.pca.bRun = true) : s.pca.irqEn = true := by
  cases hi : s.pca.irqEn with
  | true => rfl
  | false => have := (h.before_init hi).2.2.1; rw [hb] at this; cases this

theorem PcaInv.cRun_irq {s : State} (h : PcaInv s) (hb : s.pca.cRun = true) : s.pca.irqEn = true := by
  cases hi : s.pca.irqEn with
  | true => rfl
  | false => have := (h.before_init hi).2.2.2; rw [hb] at this; cases this

theorem PcaInv.setLevel {s : State} (h : PcaInv s) (v : Word) : IfNext PcaInv (setLevel v s) := by
  rw [setLevel_ifNext]
  intro hi
  refine ⟨fun _ => ?_, fun _ _ => ?_, fun h1 h2 => ?_⟩
  · refine ⟨fun _ => h.table_eq hi, fun _ => h.table_ok hi, h.entry_le, Or.inl rfl, by simp, fun hf => ?_, h.read_timer,⟩
    rw [hi] at hf; cases hf
  · refine ⟨fun _ => h.table_eq hi, fun _ => h.table_ok hi, h.entry_le, Or.inl rfl, by simp, fun hf => ?_, h.read_timer,⟩
    rw [hi] at hf; cases hf
  · refine ⟨fun _ => h.table_eq hi, fun _ => h.table_ok hi, ?_, Or.inr rfl, by simp, fun hf => ?_, h.read_timer,⟩
    · simp only [tableEntry]
      rw [h.table_eq hi]
      have hok := h.table_ok hi
      simp only [phaseTableOk, Bool.and_eq_true, List.all_eq_true, decide_eq_true_eq] at hok
      cases he : s.conf.pcaTable[v.toInt.toNat]? with
      | none => simp
      | some e => simpa using hok.1.2 e (List.mem_of_getElem? he)
    · rw [hi] at hf; cases hf

theorem PcaInv.bExpire {s : State} (h : PcaInv s) (hb : s.pca.bRun = true) : PcaInv (bExpire s) :=
  h.same rfl rfl rfl rfl rfl rfl (by simp) (fun _ => h.bRun_irq hb) h.read_timer

theorem PcaInv.cReload {s : State} (h : PcaInv s) : PcaInv (cReload s) :=
  h.same rfl rfl rfl rfl rfl rfl h.bRun_irq h.cRun_irq h.read_timer

theorem PcaInv.zeroCrossing {s : State} (h : PcaInv s) (p q : Half) (hi : s.pca.irqEn = true) : PcaInv (zeroCrossing p q s) :=
  h.same rfl rfl rfl rfl rfl rfl (fun _ => hi) h.cRun_irq h.read_timer

theorem PcaInv.readExpires {s : State} (h : PcaInv s) : PcaInv (readExpires s) :=
  h.same rfl rfl rfl rfl rfl rfl h.bRun_irq h.cRun_irq (by simp)

theorem PcaInv.completeRead {s : State} (h : PcaInv s) : PcaInv (completeRead s) :=
  h.same rfl rfl rfl rfl rfl rfl h.bRun_irq h.cRun_irq (by simp)

theorem PcaInv.readDue {s : State} (h : PcaInv s) : PcaInv (readDue s) := by
  unfold Sys2Proof.Machine.readDue
  split
  · exact h.completeRead
  · exact h

theorem PcaInv.hostTurn {s : State} (h : PcaInv s) (zc : Bool) : PcaInv (hostTurn zc s) := by
  unfold Sys2Proof.Machine.hostTurn
  split
  · exact h.readDue
  · exact h

theorem PcaInv.beforeEvent {s : State} (h : PcaInv s) (i : Instr) : PcaInv (beforeEvent i s) :=
  beforeEvent_ind (P := PcaInv) i h h.readDue

theorem SwdInv.readDue {s : State} (h : SwdInv s) : SwdInv (readDue s) := h.congr (by simp) (by simp) (by simp)
theorem SwdInv.hostTurn {s : State} (h : SwdInv s) (zc : Bool) : SwdInv (hostTurn zc s) :=
  h.congr (by simp) (by simp) (by simp)
theorem SwdInv.beforeEvent {s : State} (h : SwdInv s) (i : Instr) : SwdInv (beforeEvent i s) :=
  beforeEvent_ind (P := SwdInv) i h h.readDue

theorem PcaInv.counterA {s : State} (h : PcaInv s) (zc : Bool) : PcaInv (counterA zc s) := by
  have same : ∀ (s : State) (b : Bool), PcaInv s → PcaInv { s with pca.aPrev := b } := fun s b h =>
    h.same rfl rfl rfl rfl rfl rfl h.bRun_irq h.cRun_irq h.read_timer
  unfold Sys2Proof.Machine.counterA
  apply same
  split
  · rename_i hi
    unfold counterAEdge
    split_ifs
    · exact h.same rfl rfl rfl rfl rfl rfl h.bRun_irq h.cRun_irq h.read_timer
    · have := h.zeroCrossing (s.pca.aCnt + 1) s.pca.aHigh hi
      exact this.same rfl rfl rfl rfl rfl rfl this.bRun_irq this.cRun_irq this.read_timer
    · exact h.same rfl rfl rfl rfl rfl rfl h.bRun_irq h.cRun_irq h.read_timer
    · exact h.same rfl rfl rfl rfl rfl rfl h.bRun_irq h.cRun_irq h.read_timer
  · exact h

theorem PcaInv.countC {s : State} (h : PcaInv s) : PcaInv (countC s) := by
  unfold Sys2Proof.Machine.countC
  split_ifs
  · exact h.cReload
  · exact h.same rfl rfl rfl rfl rfl rfl h.bRun_irq h.cRun_irq h.read_timer
  · exact h

theorem PcaInv.countersBC {s : State} (h : PcaInv s) : PcaInv (countersBC s) := by
  unfold Sys2Proof.Machine.countersBC
  split_ifs with h1 h2
  · exact h.bExpire h1
  · exact PcaInv.countC (h.same rfl rfl rfl rfl rfl rfl h.bRun_irq h.cRun_irq h.read_timer)
  · exact h.countC

theorem PcaInv.readTimer {s : State} (h : PcaInv s) (b : Bool) : PcaInv (readTimer b s) := by
  unfold Sys2Proof.Machine.readTimer
  split_ifs
  · exact h.readExpires
  · exact h

/-! ### The LOOP task -/

theorem LoopInv.congr {s t : State} (h : LoopInv s) (h1 : t.run.served = s.run.served) (h2 : t.run.held = s.run.held)
    (h3 : t.run.stage = s.run.stage) (h4 : t.run.tLock = s.run.tLock) : LoopInv t := by
  obtain ⟨a, b⟩ := h
  constructor
  · rw [h3, ← a]; simp only [loopReads, h1, h2]
  · rw [h3, h4]; exact b

theorem LoopInv.readDue {s : State} (h : LoopInv s) : LoopInv (readDue s) :=
  h.congr (by simp) (by simp) (by simp) (by simp)
theorem LoopInv.hostTurn {s : State} (h : LoopInv s) (zc : Bool) : LoopInv (hostTurn zc s) :=
  h.congr (by simp) (by simp) (by simp) (by simp)
theorem LoopInv.beforeEvent {s : State} (h : LoopInv s) (i : Instr) : LoopInv (beforeEvent i s) :=
  beforeEvent_ind (P := LoopInv) i h h.readDue


theorem LoopInv.restage {s t : State} (h : LoopInv s) (h1 : t.run.served = s.run.served) (h2 : t.run.held = s.run.held)
    (hs : s.run.stage ≠ .waiting) (ht : t.run.stage ≠ .waiting) (h4 : t.run.tLock ≠ 0 → t.run.stage = .acquire) : LoopInv t := by
  obtain ⟨a, b⟩ := h
  constructor
  · rw [if_neg ht, ← if_neg (c := s.run.stage = .waiting) (t := 1) (e := 0) hs, ← a]; simp only [loopReads, h1, h2]
  · exact h4

theorem SwdInv.free_served {s : State} (h : SwdInv s) (hb : s.swd.busy = false) (hd : s.cli.done = false) : s.run.served = none := by
  have := h.served_iff
  cases hs : s.run.served with
  | none => rfl
  | some c => rw [hs] at this; simp [hb, hd] at this

theorem LoopInv.cancelServed {s : State} (h : LoopInv s) : LoopInv (cancelServed s) := by
  obtain ⟨a, b⟩ := h
  simp only [loopReads] at a
  have hne : (LoopStage.record statusRcvTimeout = .waiting) = False := by simp
  cases hs : s.run.served with
  | none =>
    constructor
    · simp [loopReads, hs, deadlineStage]; simpa [hs] using a
    · simpa [hs, deadlineStage] using b
  | some c =>
    cases c with
    | host =>
      constructor
      · simp [loopReads, hs, deadlineStage]; simpa [hs] using a
      · simpa [hs, deadlineStage] using b
    | loop =>
      have hw : s.run.stage = .waiting := by
        by_contra hw; rw [if_neg hw] at a; simp [hs] at a
      constructor
      · simp [loopReads, hs, deadlineStage]; simp [hs, hw] at a; exact a
      · simp [hs, deadlineStage]; by_contra hc; have := b hc; simp [hw] at this

theorem LoopInv.cancelHeld {s : State} (h : LoopInv s) (x : Held) (rest : List Held)
    (hr : s.run.held.countP (fun h => h.caller == .loop) = rest.countP (fun h => h.caller == .loop) + (if x.caller = .loop then 1 else 0)) : LoopInv (cancelHeld x rest s) := by
  obtain ⟨a, b⟩ := h
  simp only [loopReads] at a
  cases hc : x.caller with
  | host =>
    simp [hc] at hr
    constructor
    · simp [loopReads, hc, deadlineStage]; rw [← hr]; exact a
    · simpa [hc, deadlineStage] using b
  | loop =>
    simp [hc] at hr
    have hw : s.run.stage = .waiting := by
      by_contra hw; rw [if_neg hw] at a; omega
    rw [if_pos hw] at a
    constructor
    · simp [loopReads, hc, deadlineStage];
      split_ifs at a <;> simp_all
    · simp [hc, deadlineStage]; by_contra hc; have := b hc; simp [hw] at this

theorem countP_eraseIdx {p : Held → Bool} {l : List Held} {k : Nat} {x : Held} (h : l[k]? = some x) :
    l.countP p = (l.eraseIdx k).countP p + (if p x then 1 else 0) := by
  induction l generalizing k with
  | nil => simp at h
  | cons y l ih =>
    cases k with
    | zero => simp at h; subst h; simp [List.countP_cons]
    | succ k => simp at h; simp [List.countP_cons, ih h]; omega

theorem countP_filter_add (l : List Held) (p q : Held → Bool) :
    l.countP p = (l.filter q).countP p + (l.filter (fun x => !q x)).countP p := by
  induction l with
  | nil => rfl
  | cons x l ih =>
    cases hq : q x <;> simp [hq, List.countP_cons, ih] <;> omega

theorem heldTimers_loopInv {s : State} (h : LoopInv s) : LoopInv (heldTimers s) := by
  obtain ⟨h1, h2, -, h3, h4, -⟩ := foldl_cancelHeld_run (s.run.held.filter (fun h => h.left == 0)) (s.run.held.filter (fun h => h.left != 0)) s
  have hsum := countP_filter_add s.run.held (fun h => h.caller == .loop) (fun h => h.left == 0)
  have hrest : (if s.run.held.filter (fun h => h.left == 0) = [] then s.run.held else s.run.held.filter (fun h => h.left != 0)) = s.run.held.filter (fun h => h.left != 0) := by
    split
    · rename_i he
      rw [List.filter_eq_nil_iff] at he
      symm; rw [List.filter_eq_self]; simpa [bne] using he
    · rfl
  rw [hrest] at h3
  have a := h.reads_eq
  have hbne : (s.run.held.filter (fun h => !(h.left == 0))) = s.run.held.filter (fun h => h.left != 0) := rfl
  rw [hbne] at hsum
  constructor
  · show (if (heldTimers s).run.served = some .loop then 1 else 0) + (heldTimers s).run.held.countP (fun h => h.caller == .loop) = if (heldTimers s).run.stage = .waiting then 1 else 0
    unfold heldTimers
    dsimp only at h1 h2 h3 h4 ⊢
    rw [h1, h3, h4]
    simp only [loopReads] at a
    cases hl : (s.run.held.filter (fun h => h.left == 0)).any (fun h => h.caller == .loop) with
    | false =>
      have : (s.run.held.filter (fun h => h.left == 0)).countP (fun h => h.caller == .loop) = 0 := by
        rw [List.countP_eq_zero]; rw [List.any_eq_false] at hl; exact hl
      rw [this, Nat.zero_add] at hsum
      simp only [Bool.false_eq_true, if_false]; rw [← hsum]; exact a
    | true =>
      have : 0 < (s.run.held.filter (fun h => h.left == 0)).countP (fun h => h.caller == .loop) := by
        rw [List.countP_pos_iff]; rw [List.any_eq_true] at hl; exact hl
      simp only [if_true, reduceCtorEq, if_false]
      split_ifs at a ⊢ <;> omega
  · intro hne
    unfold heldTimers at hne ⊢
    dsimp only at h1 h2 h3 h4 hne ⊢
    rw [h2] at hne
    rw [h4]
    have hst := h.lock_timer hne
    have hnw : s.run.stage ≠ .waiting := by rw [hst]; simp
    rw [if_neg hnw] at a
    simp only [loopReads] at a
    have : (s.run.held.filter (fun h => h.left == 0)).any (fun h => h.caller == .loop) = false := by
      rw [List.any_eq_false, ← List.countP_eq_zero]; omega
    rw [this, if_neg (by simp)]; exact hst

theorem LoopInv.submit_host {s : State} (h : LoopInv s) (hi : SwdInv s) (t : Word) (f : Bool) : IfNext LoopInv (submitRead .host t f s) := by
  rw [submitRead_ifNext]
  refine fun _ _ => ⟨fun _ => ?_, fun hb hd => ?_⟩
  · refine ⟨?_, h.lock_timer⟩
    rw [← h.reads_eq]; simp [loopReads]
  · refine ⟨?_, h.lock_timer⟩
    show _ = if s.run.stage = .waiting then 1 else 0
    rw [← h.reads_eq]; simp [loopReads, hi.free_served hb hd]

theorem LoopInv.settle {s : State} (h : LoopInv s) (hi : SwdInv s) : LoopInv (settle s) := by
  unfold Sys2Proof.Machine.settle
  split
  · exact h
  · rename_i hc
    simp only [not_or, Bool.not_eq_true] at hc
    have hs := hi.free_served hc.1 hc.2
    have acc : ∀ k x, s.run.held[k]? = some x → LoopInv (acceptHeld x (s.run.held.eraseIdx k) s) := by
      intro k x hk
      have := countP_eraseIdx (p := fun h => h.caller == .loop) hk
      refine ⟨?_, h.lock_timer⟩
      show _ = if s.run.stage = .waiting then 1 else 0
      rw [← h.reads_eq]
      simp only [loopReads, hs, this, acceptHeld_run]
      rcases x with ⟨c, l, f⟩
      cases c <;> simp; omega
    split
    · exact h
    · rename_i x hx
      have := acc 0 x (by rw [hx]; rfl)
      rw [hx] at this; exact this
    · rename_i x xs hx hh
      dsimp only
      rw [← hh]
      generalize hk : Config.heldPick s.run.picks % s.run.held.length = k
      have hl : k < s.run.held.length := by rw [← hk]; apply Nat.mod_lt; rw [hh]; simp
      have := acc k s.run.held[k] (by simp [hl])
      rw [List.getElem?_eq_getElem hl]
      exact this.congr rfl rfl rfl rfl

end Sys2Proof.Machine
end

