-- ==== Sys2Proof/Laws/PerInstr.lean ====
section
/-!
SUPPORT. Per-instruction statements (LAWS.json). CodeSpace: which of the three code spaces an instruction's word lies in,
and the marks 30_encoding.md gives them: a command's bits 7:4 name its unit, 0 to 4 (R95), an event has bit 7 set (R96),
a symbol code is at most 4 (R84).
-/
namespace Sys2Proof.Laws.CodeSpace

def inItsSpace : CodeWord → Bool
  | .command op => decide ((op.extractLsb' 4 4).toNat ≤ 4) && !op.getLsbD 7
  | .event code _ => code.getLsbD 7
  | .symbol code => decide (code.toNat ≤ 4)

def Statement (i : Instr) : Prop := inItsSpace (encode i) = true

theorem fxAdd : Statement .fxAdd := rfl
theorem fxSub : Statement .fxSub := rfl
theorem fxMul : Statement .fxMul := rfl
theorem fxDiv : Statement .fxDiv := rfl
theorem fxFromInt : Statement .fxFromInt := rfl
theorem fxToInt : Statement .fxToInt := rfl
theorem fxClamp : Statement .fxClamp := rfl
theorem fxParse : Statement .fxParse := rfl
theorem fxFormat : Statement .fxFormat := rfl
theorem swdRead : Statement .swdRead := rfl
theorem pcaSet : Statement .pcaSet := rfl
theorem pcaRead : Statement .pcaRead := rfl
theorem pcaInit : Statement .pcaInit := rfl
theorem pidCompute : Statement .pidCompute := rfl
theorem pidSetCoef : Statement .pidSetCoef := rfl
theorem pidSetLimits : Statement .pidSetLimits := rfl
theorem loopTick : Statement .loopTick := rfl
theorem swdIrqCapture (period low : Half) : Statement (.swdIrqCapture period low) := rfl
theorem swdIrqCapto : Statement .swdIrqCapto := rfl
theorem swdStartDone : Statement .swdStartDone := rfl
theorem swdConsume : Statement .swdConsume := rfl
theorem swdWaitExpire : Statement .swdWaitExpire := rfl
theorem swdDeadline : Statement .swdDeadline := rfl
theorem pcaIrqZc (period offset : Half) : Statement (.pcaIrqZc period offset) := rfl
theorem pcaBExpire : Statement .pcaBExpire := rfl
theorem pcaCReload : Statement .pcaCReload := rfl
theorem pcaReadExpire : Statement .pcaReadExpire := rfl
theorem symInvalid : Statement .symInvalid := rfl
theorem symStart : Statement .symStart := rfl
theorem symBit0 : Statement .symBit0 := rfl
theorem symBit1 : Statement .symBit1 := rfl
theorem symTimeout : Statement .symTimeout := rfl

end Sys2Proof.Laws.CodeSpace
end

