-- ==== Sys2Proof/Tests/Slice0.lean ====
section
/-!
SUPPORT. Tests of the model's author, each over one step on a small state. Expected values are those of
spec/95_test_vectors.md (the vector is named) or of the encoding tables of spec/30_encoding.md; and, for every statement
with hypotheses, a state that meets them.
-/
namespace Sys2Proof.Tests
open Sys2Proof Sys2Proof.Machine

/-! ### Well-formedness, decoding, encoding -/

/-- R138: `period >= 1`. The check refuses the ill-formed term and accepts the same term with the smallest period. -/
theorem test_wf_refuses_zero_period :
    (Instr.swdIrqCapture 0 80).wf = false ∧ (Instr.swdIrqCapture 1 80).wf = true := by decide

/-- The machine stops by name on the ill-formed term. -/
theorem test_zero_period_is_refused :
    exec (.swdIrqCapture 0 80) { State.reset with swd.irqEn := true } = .refused .captureZeroPeriod := rfl

/-- 30_encoding.md R95, codes written out in binary. -/
theorem test_decode_fx :
    decode (.command 0b00000001) = .ok .fxAdd ∧ decode (.command 0b00000010) = .ok .fxSub ∧
    decode (.command 0b00000011) = .ok .fxMul ∧ decode (.command 0b00000100) = .ok .fxDiv ∧
    decode (.command 0b00000101) = .ok .fxFromInt ∧ decode (.command 0b00000110) = .ok .fxToInt ∧
    decode (.command 0b00000111) = .ok .fxClamp ∧ decode (.command 0b00001000) = .ok .fxParse ∧
    decode (.command 0b00001001) = .ok .fxFormat := by decide

theorem test_decode_commands :
    decode (.command 0b00010000) = .ok .swdRead ∧ decode (.command 0b00100000) = .ok .pcaSet ∧
    decode (.command 0b00100001) = .ok .pcaRead ∧ decode (.command 0b00100010) = .ok .pcaInit ∧
    decode (.command 0b00110000) = .ok .pidCompute ∧ decode (.command 0b00110001) = .ok .pidSetCoef ∧
    decode (.command 0b00110010) = .ok .pidSetLimits ∧ decode (.command 0b01000000) = .ok .loopTick := by decide

/-- 30_encoding.md R96 and R82: `period` in bits 31:16 of the payload. The words are those of 95_test_vectors.md. -/
theorem test_decode_events :
    decode (.event 0b10000000 0x00A00050) = .ok (.swdIrqCapture 160 80) ∧
    decode (.event 0b10000001 0) = .ok .swdIrqCapto ∧ decode (.event 0b10000010 0) = .ok .swdStartDone ∧
    decode (.event 0b10000011 0) = .ok .swdConsume ∧ decode (.event 0b10000100 0) = .ok .swdWaitExpire ∧
    decode (.event 0b10000101 0) = .ok .swdDeadline ∧
    decode (.event 0b10010000 0x4E2027D8) = .ok (.pcaIrqZc 20000 10200) ∧
    decode (.event 0b10010001 0) = .ok .pcaBExpire ∧ decode (.event 0b10010010 0) = .ok .pcaCReload ∧
    decode (.event 0b10010011 0) = .ok .pcaReadExpire := by decide

/-- 30_encoding.md R84. -/
theorem test_decode_symbols :
    decode (.symbol 0b000) = .ok .symInvalid ∧ decode (.symbol 0b001) = .ok .symStart ∧
    decode (.symbol 0b010) = .ok .symBit0 ∧ decode (.symbol 0b011) = .ok .symBit1 ∧
    decode (.symbol 0b100) = .ok .symTimeout := by decide

/-- Codes beside the tables are rejected by name. -/
theorem test_decode_rejects :
    decode (.command 0x00) = .error .badOp ∧ decode (.command 0x0A) = .error .badOp ∧
    decode (.command 0x80) = .error .badOp ∧ decode (.event 0x86 0) = .error .unknownEvent ∧
    decode (.event 0x01 0) = .error .unknownEvent ∧ decode (.event 0x81 1) = .error .strayPayload ∧
    decode (.symbol 5) = .error .reservedSymbol := by decide

/-- The opcode table's numbering: the payload word counts on from bit 8. -/
theorem test_table_words :
    decodeTableWord 8 0x30 = some .pidCompute ∧ decodeTableWord 40 0x00A0005080 = some (.swdIrqCapture 160 80) ∧
    decodeTableWord 3 0b100 = some .symTimeout ∧ decodeTableWord 8 0x93 = some .pcaReadExpire ∧
    decodeTableWord 8 0x0A = none := by decide

/-! ### Helpers -/

/-- The outcome is a next state of which `p` holds. -/
def ends (r : Result) (p : State → Bool) : Bool :=
  match r with
  | .next t => p t
  | .fault _ => false
  | .refused _ => false

/-- Reset, with operands written. -/
def ops (a0 a1 a2 : Word) : State := { State.reset with cmd.a0 := a0, cmd.a1 := a1, cmd.a2 := a2 }

/-- `r0` after a command. -/
def r0Is (i : Instr) (a0 a1 a2 : Word) (v : Int) : Bool := ends (exec i (ops a0 a1 a2)) (fun t => t.cmd.r0.toInt == v)

/-- Reset, with the operand string of FX_PARSE. -/
def withStr (cs : List Char) : State := { State.reset with cmd.str := cs }

/-- The decoder waiting in phase `p` at bit `k`, with a sample signalled. -/
def sampled (p : Phase) (k : Nat) (period low : Half) : State :=
  { State.reset with
    swd.phase := p, swd.bit := k, swd.irqEn := true, swd.busy := true
    swd.sample := packSample period low, swd.sig := true
    run.served := some .host }

/-- The decoder in phase `p` with no sample. -/
def silent (p : Phase) : State := { sampled p 0 0 0 with swd.sig := false }

/-- After PCA_INIT. -/
def inited : State :=
  { State.reset with pca.table := Config.example.pcaTable, pca.phaseEntry := 65536, pca.irqEn := true }

/-- The gains and limits of 95_test_vectors.md 2.6. -/
def pidBase : Pid := ⟨131072, 32768, 16384, 0, 0, 0, 0, 6553600, false⟩

/-- The PID after V-PID-1. -/
def pidOne : Pid := { pidBase with prevError := 327680, prevTs := 655360, hasPrev := true }

/-- The PID after V-PID-2. -/
def pidTwo : Pid := { pidOne with integral := 524288, prevError := 262144, prevTs := 786432 }

/-! ### Fixed point (95_test_vectors.md 2.4) -/

/-- V-FX-1, V-FX-2. -/
theorem test_add : r0Is .fxAdd 98304 147456 0 245760 ∧ r0Is .fxAdd 2147483647 1 0 (-2147483648) := by decide

/-- 60_exceptions.md R226, row 0: success reports OK, whatever an earlier command left. -/
theorem test_success_reports_ok : ∀ i ∈ [Instr.fxAdd, .fxFormat, .pidCompute, .pidSetCoef, .pidSetLimits, .pcaInit],
    ends (exec i { ops 1 2 3 with cmd.status := 7 }) (fun t => t.cmd.status == 0) := by decide

/-- V-FX-3, V-FX-4. -/
theorem test_sub :
    r0Is .fxSub 1638400 1310720 0 327680 ∧ r0Is .fxSub (BitVec.ofInt 32 (-2147483648)) 1 0 2147483647 := by decide

/-- V-FX-6, V-FX-7: the floor of a negative product, and the wrap. -/
theorem test_mul : r0Is .fxMul (-1) 1 0 (-1) ∧ r0Is .fxMul 13107200 13107200 0 (-1673527296) := by decide

/-- V-FX-8, V-FX-9: toward zero. -/
theorem test_div : r0Is .fxDiv (-65536) 131072 0 (-32768) ∧ r0Is .fxDiv (-1) 131072 0 0 := by decide

/-- V-FX-10, V-FX-11: the wrap, and a zero divisor. -/
theorem test_div_corners :
    r0Is .fxDiv (BitVec.ofInt 32 (-2147483648)) (-65536) 0 (-2147483648) ∧
    ends (exec .fxDiv { ops 65536 0 0 with cmd.r0 := 5 }) (fun t => t.cmd.status == 7 && t.cmd.r0 == 5) := by decide

/-- V-FX-12, V-FX-13. -/
theorem test_from_int : r0Is .fxFromInt 25 0 0 1638400 ∧ r0Is .fxFromInt 32768 0 0 (-2147483648) := by decide

/-- V-FX-14, V-FX-15. -/
theorem test_to_int : r0Is .fxToInt (-32768) 0 0 (-1) ∧ r0Is .fxToInt 65535 0 0 0 := by decide

/-- V-FX-18, V-FX-19: bounds out of order are not reordered. -/
theorem test_clamp : r0Is .fxClamp 4 5 3 5 ∧ r0Is .fxClamp 6 5 3 3 := by decide

/-- V-FX-20, V-FX-23, V-FX-24, V-FX-25, V-FX-28. -/
theorem test_parse :
    ends (exec .fxParse (withStr ['2', '3', '.', '4', '5', '6'])) (fun t => t.cmd.r0.toInt == 1537212) ∧
    ends (exec .fxParse (withStr ['-', '1', '0', '.', '1'])) (fun t => t.cmd.r0.toInt == -661913) ∧
    ends (exec .fxParse (withStr ['5', '.'])) (fun t => t.cmd.r0.toInt == 327680) ∧
    ends (exec .fxParse (withStr ['+', '2', '.', '2', '5'])) (fun t => t.cmd.r0.toInt == 147456) ∧
    ends (exec .fxParse (withStr ['3', '2', '7', '6', '8'])) (fun t => t.cmd.r0.toInt == -2147483648) := by decide

/-- V-FX-27: outside the grammar. -/
theorem test_parse_rejects :
    ends (exec .fxParse (withStr ['.', '5'])) (fun t => t.cmd.status == 8) ∧
    ends (exec .fxParse (withStr ['a', 'b', 'c'])) (fun t => t.cmd.status == 8) ∧
    ends (exec .fxParse (withStr ['1', '.', '5', '.', '2'])) (fun t => t.cmd.status == 8) ∧
    ends (exec .fxParse (withStr [])) (fun t => t.cmd.status == 8) := by decide

/-- V-FX-30, V-FX-34, V-FX-36. -/
theorem test_format :
    ends (exec .fxFormat (ops (-32768) 0 0)) (fun t => t.cmd.strOut == ['-', '0', '.', '5', '0', '0']) ∧
    ends (exec .fxFormat (ops (-32) 0 0)) (fun t => t.cmd.strOut == ['0', '.', '0', '0', '0']) ∧
    ends (exec .fxFormat (ops 65510 0 0)) (fun t => t.cmd.strOut == ['1', '.', '0', '0', '0']) := by decide

/-- V-FX-38. -/
theorem test_format_most_negative :
    ends (exec .fxFormat (ops (BitVec.ofInt 32 (-2147483648)) 0 0))
      (fun t => t.cmd.strOut == ['-', '3', '2', '7', '6', '8', '.', '0', '0', '0']) := by decide

/-! ### The decoder (95_test_vectors.md 2.1 to 2.3) -/

/-- V-CLS-2 to V-CLS-6, V-CLS-8. -/
theorem test_classify_start :
    classifyStart Config.example (packSample 80 40) = .start ∧
    classifyStart Config.example (packSample 79 39) = .invalid ∧
    classifyStart Config.example (packSample 240 120) = .start ∧
    classifyStart Config.example (packSample 241 121) = .invalid ∧
    classifyStart Config.example (packSample 241 120) = .invalid ∧
    classifyStart Config.example (packSample 0 0) = .timeout := by decide

/-- V-CLB-3 to V-CLB-7, V-CLB-16, V-CLB-18, V-CLB-20, V-CLB-21. -/
theorem test_classify_bit :
    classifyBit Config.example (packSample 39 25) = .bit0 ∧ classifyBit Config.example (packSample 38 25) = .invalid ∧
    classifyBit Config.example (packSample 38 24) = .invalid ∧ classifyBit Config.example (packSample 59 25) = .bit0 ∧
    classifyBit Config.example (packSample 60 25) = .bit1 ∧ classifyBit Config.example (packSample 180 75) = .bit1 ∧
    classifyBit Config.example (packSample 116 76) = .invalid ∧
    classifyBit Config.example (packSample 0 50) = .timeout ∧
    classifyBit Config.example (packSample 50 60) = .invalid := by decide

/-- V-PKT-2, V-PKT-4, V-PKT-5, V-PKT-6. -/
theorem test_packet_values :
    temperatureOf #v[0x02, 0x8C, 0x80, 0x65, 0x73] = -101 ∧ humidityOf #v[0x02, 0x8C, 0x80, 0x65, 0x73] = 652 ∧
    temperatureOf #v[0, 0, 0x80, 0, 0x80] = 0 ∧ checksumOk #v[0x02, 0x8C, 0x01, 0x5F, 0xEF] = false ∧
    temperatureOf #v[0xFF, 0xFF, 0xFF, 0xFF, 0xFC] = -32767 ∧ checksumOk #v[0xFF, 0xFF, 0xFF, 0xFF, 0xFC] = true := by
  decide

/-- V-SWD-1. -/
theorem test_swd_read : ends (exec .swdRead (ops 10000 0 0)) (fun t =>
    t.swd.busy && t.swd.gen == 1 && t.swd.phase == .startPulse && t.swd.lineDrive && t.swd.tStart == 2000
      && t.swd.tRcv == 10000) := by decide

/-- V-SWD-10: a second SWD_READ is held. -/
theorem test_swd_read_held :
    ends (exec .swdRead { silent .waitBit with cmd.a0 := 10000 })
      (fun t => t.run.held == [⟨.host, 10000, true⟩] && t.swd.gen == 0 && t.swd.phase == .waitBit) := by decide

/-- V-SWD-2. -/
theorem test_start_done :
    ends (exec .swdStartDone { State.reset with swd.phase := .startPulse, swd.lineDrive := true, swd.busy := true })
      (fun t => t.swd.phase == .waitStart && !t.swd.lineDrive && t.swd.irqEn && !t.swd.sig && t.cap.first
        && t.swd.tWait == 2000) := by decide

/-- V-SWD-3, V-SWD-9. -/
theorem test_irq_capture :
    ends (exec (.swdIrqCapture 160 80) (silent .waitStart)) (fun t => t.swd.sample == 0x00A00050 && t.swd.sig) ∧
    ends (exec (.swdIrqCapture 120 50) (sampled .waitBit 3 77 50))
      (fun t => t.swd.sample == 0x00780032 && t.swd.sig) := by decide

/-- V-SWD-6, its first half. -/
theorem test_irq_capto :
    ends (exec .swdIrqCapto (sampled .waitStart 0 160 80)) (fun t => t.swd.sample == 0 && t.swd.sig) := by decide

/-- V-SWD-4, V-SWD-5. -/
theorem test_consume :
    ends (exec .swdConsume (sampled .waitStart 0 160 80))
      (fun t => !t.swd.sig && t.swd.phase == .waitBit && t.swd.bit == 0 && t.swd.tWait == 2000) ∧
    ends (exec .swdConsume (sampled .waitBit 6 120 50)) (fun t => t.swd.buf[0] == 0x02 && t.swd.bit == 7) := by decide

/-- Program P2b: noise at the eleventh bit. -/
theorem test_consume_noise : ends (exec .swdConsume (sampled .waitBit 10 300 50)) (fun t =>
    t.cli.err == 3 && t.cli.done && t.swd.bit == 10 && t.swd.phase == .idle && !t.swd.busy && !t.swd.irqEn) := by decide

/-- V-SWD-8. -/
theorem test_wait_expire :
    ends (exec .swdWaitExpire (silent .waitBit))
      (fun t => t.cli.err == 1 && t.cli.done && t.swd.phase == .idle && !t.swd.busy) := by decide

/-- Program P2d. -/
theorem test_deadline : ends (exec .swdDeadline (silent .waitStart)) (fun t =>
    t.cmd.status == 5 && t.cli.err == 5 && !t.cli.done && !t.swd.busy && t.swd.phase == .idle && !t.swd.irqEn
      && !t.swd.lineDrive) := by decide

/-- The last row of program P1. -/
theorem test_swd_return :
    ends (runInput .swdReturn { State.reset with
        cli.done := true, cli.buf := #v[0x02, 0x8C, 0x00, 0xE6, 0x74], run.served := some .host })
      (fun t => t.cmd.r0 == 230 && t.cmd.r1 == 652 && t.cmd.status == 0 && !t.cli.done) := by decide

/-- V-CLS-1, V-CLB-1, V-CLB-2, V-CLB-19, V-CLB-22, as symbol instructions. -/
theorem test_symbols :
    ends (exec .symStart (sampled .waitStart 0 160 80)) (fun t => t.swd.phase == .waitBit) ∧
    ends (exec .symBit0 (sampled .waitBit 0 77 50)) (fun t => t.swd.buf[0] == 0 && t.swd.bit == 1) ∧
    ends (exec .symBit1 (sampled .waitBit 0 120 50)) (fun t => t.swd.buf[0] == 0x80 && t.swd.bit == 1) ∧
    ends (exec .symTimeout (sampled .waitBit 20 0 0)) (fun t => t.cli.err == 2 && t.swd.bit == 20) ∧
    ends (exec .symInvalid (sampled .waitBit 0 160 80)) (fun t => t.cli.err == 3) := by decide

/-! ### The actuator (95_test_vectors.md 2.5) -/

theorem test_pca_init : ends (exec .pcaInit State.reset) (fun t =>
    t.pca.irqEn && t.pca.table == [65536, 57344, 49152, 40960, 32768, 24576, 16384, 8192, 0] && pcaMode t == .off) := by
  decide

/-- V-PCA-S2, V-PCA-S3. -/
theorem test_pca_set :
    ends (exec .pcaSet { inited with cmd.a0 := -5 }) (fun t => !t.pca.bypass && t.pca.width == 0) ∧
    ends (exec .pcaSet { inited with cmd.a0 := 1 }) (fun t => t.pca.width == 100 && t.pca.phaseEntry == 57344) := by decide

/-- V-PCA-S5, V-PCA-S6. -/
theorem test_pca_set_top :
    ends (exec .pcaSet { inited with cmd.a0 := 7 }) (fun t => !t.pca.bypass && t.pca.phaseEntry == 8192) ∧
    ends (exec .pcaSet { inited with cmd.a0 := 8 })
      (fun t => t.pca.bypass && t.pca.width == 0 && t.pca.phaseEntry == 65536) := by decide

/-- V-PCA-2, V-PCA-4. -/
theorem test_zero_crossing :
    ends (exec (.pcaIrqZc 20000 9801) { inited with pca.phaseEntry := 32768 })
      (fun t => t.pca.cReload == 9999 && t.pca.bLoad == 4900 && t.pca.bRun) ∧
    ends (exec (.pcaIrqZc 20000 9000) { inited with pca.phaseEntry := 0 }) (fun t => t.pca.bLoad == 65036) := by decide

/-- V-PCA-7, V-PCA-8. -/
theorem test_zero_crossing_extremes :
    ends (exec (.pcaIrqZc 1 0) { inited with pca.phaseEntry := 32768 })
      (fun t => t.pca.cReload == 65535 && t.pca.bLoad == 0) ∧
    ends (exec (.pcaIrqZc 65535 65535) inited) (fun t => t.pca.cReload == 32766 && t.pca.bLoad == 49151) := by decide

/-- Program P4, ticks 26100 and 36100. -/
theorem test_counters :
    ends (exec .pcaBExpire { inited with pca.bRun := true, pca.width := 100, pca.cCnt := 7 })
      (fun t => t.pca.cRun && !t.pca.bRun && pcaDrive t) ∧
    ends (exec .pcaCReload { inited with pca.cRun := true, pca.width := 100, pca.cCnt := 9999 })
      (fun t => t.pca.cCnt == 0 && pcaDrive t) := by decide

/-- The PCA_READ example under 95_test_vectors.md 2.5. -/
theorem test_pca_read :
    ends (exec .pcaRead { inited with pca.sig := true }) (fun t => !t.pca.sig && t.pca.tRead == 100000) ∧
    ends (runInput .pcaReturn { inited with pca.sample := 0x4E2027D8, pca.sig := true, run.pcaReadBlocked := true })
      (fun t => t.cmd.r0 == 20000 && t.cmd.r1 == 10200 && t.cmd.status == 0) := by decide

/-- R171: "two zero crossings inside the window return the sample of the first". -/
theorem test_pca_read_returns_the_first :
    ends (step { inited with
        pca.sig := true, pca.sample := 0x4E202710, run.pcaReadBlocked := true
        trace := [.event 0x90 0x4E2027D8] })
      (fun t => t.cmd.r1 == 10000 && t.pca.sample == 0x4E2027D8 && t.pca.sig && !t.run.pcaReadBlocked) := by decide

theorem test_pca_read_expire :
    ends (exec .pcaReadExpire { inited with run.pcaReadBlocked := true }) (fun t => t.cmd.status == 6) := by decide

/-! ### The PID and the control loop (95_test_vectors.md 2.6, 2.7) -/

/-- V-PID-1, V-PID-2. -/
theorem test_pid_compute :
    ends (exec .pidCompute { ops 1310720 1638400 655360 with pid := pidBase })
      (fun t => t.cmd.r0 == 655360 && t.pid.prevError == 327680 && t.pid.integral == 0) ∧
    ends (exec .pidCompute { ops 1376256 1638400 786432 with pid := pidOne })
      (fun t => t.cmd.r0 == 778240 && t.pid.integral == 524288 && t.pid.prevError == 262144) := by decide

/-- V-PID-4, V-PID-10. -/
theorem test_pid_compute_corners :
    ends (exec .pidCompute { ops 1376256 1638400 786432 with
        pid := { pidTwo with low := 393216, integral := 786432 } }) (fun t => t.cmd.r0 == 917504) ∧
    ends (exec .pidCompute { ops (BitVec.ofInt 32 (-2147483648)) 2147483647 0 with
        pid := ⟨65536, 0, 0, 0, 0, 0, -327680, 327680, false⟩ })
      (fun t => t.cmd.r0 == 327680 && t.pid.prevError == -1) := by decide

/-- V-PID-5. -/
theorem test_pid_set_coef :
    ends (exec .pidSetCoef { ops 131072 131072 16384 with pid := { pidTwo with integral := 786432 } })
      (fun t => t.pid.ki == 131072 && t.pid.integral == 786432) := by decide

/-- V-PID-3. -/
theorem test_pid_set_limits :
    ends (exec .pidSetLimits { ops 393216 6553600 0 with pid := pidTwo })
      (fun t => t.pid.integral == 786432 && t.pid.low == 393216) := by decide

/-- 44_control_loop.md R211: the lock is taken, or waited for. -/
theorem test_loop_tick :
    ends (exec .loopTick State.reset) (fun t => t.cfgLock && t.run.stage == .snapshot) ∧
    ends (exec .loopTick { State.reset with cfgLock := true }) (fun t => t.run.stage == .acquire) := by decide

/-- R74 with a bound of 0 ticks, on a held lock: the update is skipped at once. -/
theorem test_loop_tick_without_a_wait :
    ends (exec .loopTick { State.reset with cfgLock := true, conf.tLock := 0 }) (fun t => t.run.stage == .read) := by
  decide

/-- V-LOOP-1 to V-LOOP-4. -/
theorem test_loop_conversions :
    loopInput { State.reset with loop.lastTemperature := 230 } = 1507328 ∧
    loopInput { State.reset with loop.lastTemperature := -101 } = -661913 ∧
    loopLevel 16 778240 = 11 ∧ loopLevel 16 (-1) = -1 := by decide

/-! ### Steps -/

/-- A command, an event and a symbol placed as table words are what the very next step runs. -/
theorem test_fetch :
    ends (step ((ops 98304 147456 0).withFetchWord 8 0x01)) (fun t => t.cmd.r0 == 245760 && t.cmd.op == 1) ∧
    ends (step (State.reset.withFetchWord 40 0x4E2027D890)) (fun t => t.pca.cReload == 9999) ∧
    ends (step (State.reset.withFetchWord 3 0b001)) (fun t => t.swd.phase == .waitBit) := by decide

/-- R98: an unknown code sets status 0xFF. -/
theorem test_bad_op :
    ends (step (State.reset.withFetchWord 8 0x0A)) (fun t => t.cmd.status == 0xFF && t.cmd.op == 0x0A) := by decide

/-- R134: the step that frees the slot accepts the held read, generation 2 (P2d: "accepted at once"). -/
theorem test_held_read_enters :
    ends (step { silent .waitStart with
        swd.gen := 1, run.held := [⟨.host, 10000, false⟩], trace := [.event 0x85 0] })
      (fun t => t.swd.gen == 2 && t.swd.phase == .startPulse && t.swd.tRcv == 10000 && t.run.held == []) := by decide

/-- Program P6: ticks 2000, 2110 and 2190, each one tick. -/
theorem test_ticks :
    ends (step { State.reset with
        swd.phase := .startPulse, swd.lineDrive := true, swd.busy := true, swd.tStart := 1, swd.tRcv := 8001
        run.served := some .host, trace := [.tick false false true] })
      (fun t => t.swd.phase == .waitStart && t.swd.tRcv == 8000 && t.cap.first && !t.swd.lineDrive) ∧
    ends (step { silent .waitStart with cap.cnt := 79, cap.prev := false, trace := [.tick false false true] })
      (fun t => t.cap.lowLatch == 80) ∧
    ends (step { silent .waitStart with
        cap.cnt := 159, cap.lowLatch := 80, cap.prev := true, trace := [.tick true false true] })
      (fun t => t.swd.sample == 0x00A00050 && t.swd.phase == .waitBit) := by decide

/-- R141, R151: on the deadline's tick a sample that does not complete the exchange is not consumed. -/
theorem test_deadline_tick :
    ends (step { sampled .waitBit 6 120 50 with swd.tRcv := 1, swd.tWait := 9, trace := [.tick false false true] })
      (fun t => t.cmd.status == 5 && t.swd.bit == 6 && t.swd.buf[0] == 0 && t.swd.phase == .idle) := by decide

/-- 42_phase_actuator.md R175: Counter A measures (program P4, tick 21000). -/
theorem test_counter_a :
    ends (step { inited with
        pca.phaseEntry := 32768, pca.aFirst := false, pca.aPrev := false, pca.aCnt := 19999, pca.aHigh := 10200
        trace := [.tick false true false] })
      (fun t => t.pca.sample == 0x4E2027D8 && t.pca.bLoad == 5100 && t.pca.aCnt == 0) := by decide

/-! ### Witnesses: for each statement with hypotheses, concrete values that meet them, clause by clause -/

/-- UnknownOpSetsBadOp: codes below, between, beside and above the tables' (an event code is no command code). -/
theorem witness_UnknownOpSetsBadOp :
    ∀ op ∈ [(0x00 : Byte), 0x0A, 0x41, 0x80, 0xFF], ∀ i, encode i ≠ .command op := by
  intro op hop i
  simp only [List.mem_cons, List.not_mem_nil, or_false] at hop
  rcases hop with rfl | rfl | rfl | rfl | rfl <;> cases i <;> simp [encode]

theorem witness_StepRunsDecodedInstruction :
    (∃ s : State, s.trace = .issue 0x01 :: [] ∧ decode (.command 0x01) = .ok .fxAdd) ∧
    (∃ s : State, s.trace = .event 0x90 0xFFFF0000 :: [.swdReturn] ∧
      s.run.pcaReadBlocked = false ∧ decode (.event 0x90 0xFFFF0000) = .ok (.pcaIrqZc 65535 0)) ∧
    (∃ s : State, s.trace = .event 0x91 0 :: [] ∧ decode (.event 0x91 0) = .ok .pcaBExpire ∧
      s.run.pcaReadBlocked = true ∧ s.pca.sig = true ∧ ∀ p q, Instr.pcaBExpire ≠ .pcaIrqZc p q) ∧
    (∃ s t : State, s.trace = .event 0x90 0xFFFF0000 :: [] ∧
      runInput .pcaReturn { s with trace := [] } = .next t) :=
  ⟨⟨{ State.reset with trace := [.issue 0x01] }, by decide⟩,
   ⟨{ State.reset with trace := [.event 0x90 0xFFFF0000, .swdReturn] }, by decide⟩,
   ⟨{ State.reset with trace := [.event 0x91 0], run.pcaReadBlocked := true, pca.sig := true }, rfl, rfl, rfl, rfl,
     fun _ _ h => by cases h⟩,
   ⟨{ State.reset with trace := [.event 0x90 0xFFFF0000], run.pcaReadBlocked := true, pca.sig := true }, _, rfl, rfl⟩⟩

theorem witness_ConsumeRunsTheSymbol :
    (Waiting (sampled .waitStart 0 160 80) ∧ (sampled .waitStart 0 160 80).swd.sig = true) ∧
    (Waiting (sampled .waitBit 39 77 50) ∧ (sampled .waitBit 39 77 50).swd.sig = true) := by decide

theorem witness_DivideRoundsTowardZero : (ops 5 1 0).cmd.a1 ≠ 0 ∧ (ops 5 0 0).cmd.a1 = 0 := by decide

/-- Strings of the grammar: a sign, an empty fraction, no point; and one outside it. -/
theorem witness_ParseFollowsTheGrammar :
    DecimalString false [2] [2, 5] (withStr ['+', '2', '.', '2', '5']).cmd.str ∧
    DecimalString true [0] [9] (withStr ['-', '0', '.', '9']).cmd.str ∧
    DecimalString false [5] [] (withStr ['5', '.']).cmd.str ∧
    DecimalString false [3, 2, 7, 6, 8] [] (withStr ['3', '2', '7', '6', '8']).cmd.str ∧
    (∀ neg ip fp, ¬ DecimalString neg ip fp (withStr []).cmd.str) := by
  refine ⟨⟨by simp, by simp, by simp, ['+'], ['.', '2', '5'], by simp, .inl rfl, rfl⟩,
    ⟨by simp, by simp, by simp, ['-'], ['.', '9'], rfl, .inl rfl, rfl⟩,
    ⟨by simp, by simp, by simp, [], ['.'], by simp, .inl rfl, rfl⟩,
    ⟨by simp, by simp, by simp, [], [], by simp, .inr ⟨rfl, rfl⟩, rfl⟩, ?_⟩
  rintro neg ip fp ⟨hip, -, -, sign, frac, -, -, h⟩
  simp [withStr] at h
  exact hip h.2.1

theorem witness_FormatRoundsHalfUp : 1 ≤ State.reset.conf.fxFrac := by decide

/-- The smallest timeout accepted, the largest refused, a completion not yet taken. -/
theorem witness_ReadIsAcceptedWhenFree :
    (0 < (ops 1 0 0).cmd.a0.toInt ∧ (ops 1 0 0).swd.busy = false ∧ (ops 1 0 0).cli.done = false) ∧
    (ops 0 0 0).cmd.a0.toInt ≤ 0 ∧
    (∃ s : State, 0 < s.cmd.a0.toInt ∧ s.cli.done = true ∧ s.run.served ≠ some .loop) :=
  ⟨by decide, by decide, { ops 1 0 0 with cli.done := true, run.served := some .host }, by decide⟩

theorem witness_BusyReadIsHeldThenAccepted :
    (∃ s : State, 0 < s.cmd.a0.toInt ∧ s.swd.busy = true ∧ s.cli.done = false) ∧
    (∃ s : State, 0 < s.cmd.a0.toInt ∧ s.swd.busy = false ∧ s.cli.done = true ∧ s.run.served = some .loop) ∧
    (∃ s : State, s.swd.busy = false ∧ s.cli.done = false ∧ s.run.held = [⟨.loop, 10000, false⟩]) :=
  ⟨⟨{ ops 1 0 0 with swd.busy := true }, by decide⟩,
   ⟨{ ops 1 0 0 with cli.done := true, run.served := some .loop }, by decide⟩,
   ⟨{ State.reset with run.held := [⟨.loop, 10000, false⟩] }, by decide⟩⟩

theorem witness_StartDoneArmsCapture :
    (sampled .startPulse 0 0 0).swd.phase = .startPulse ∧ State.reset.swd.phase ≠ .startPulse := by decide

/-- The smallest period, and a sample not yet consumed. -/
theorem witness_CaptureOverwritesAndSignals :
    (1 : Half) ≠ 0 ∧ (sampled .waitBit 0 77 50).swd.irqEn = true ∧ State.reset.swd.irqEn = false := by decide

/-- In a waiting phase; and with a PCA_READ blocked and none. -/
theorem witness_SecondFiringOverwritesTheFirst :
    (sampled .waitBit 0 77 50).swd.irqEn = true ∧ Waiting (sampled .waitBit 0 77 50) ∧ (1 : Half) ≠ 0 ∧
    (∀ b : Bool, ∃ s : State, s.pca.irqEn = true ∧ s.run.pcaReadBlocked = b) :=
  ⟨rfl, by decide, by decide, fun b => ⟨{ inited with run.pcaReadBlocked := b }, rfl, rfl⟩⟩

theorem witness_InterruptsFollowTheirEnables :
    (silent .waitBit).swd.irqEn = true ∧ State.reset.swd.irqEn = false ∧ State.reset.pca.irqEn = false := by decide

/-- V-CLB-20: `low` is not 0. -/
theorem witness_ZeroPeriodEndsWithTimeout :
    (∀ p, p = Phase.waitStart ∨ p = Phase.waitBit → Waiting (sampled p 0 0 50)) ∧
    (sampled .waitStart 0 0 50).swd.sig = true ∧ samplePeriod (sampled .waitStart 0 0 50).swd.sample = 0 := by
  refine ⟨fun p h => h, by decide, by decide⟩

/-- V-CLS-3 and V-CLB-4: one below an edge. -/
theorem witness_NoiseEndsWithDecodeError :
    (samplePeriod (sampled .waitStart 0 79 39).swd.sample ≠ 0 ∧ (sampled .waitStart 0 79 39).swd.sig = true ∧
      (39 : Int) = (sampleSecond (sampled .waitStart 0 79 39).swd.sample).toNat ∧
      (40 : Int) = (samplePeriod (sampled .waitStart 0 79 39).swd.sample).toNat - 39 ∧
      (sampled .waitStart 0 79 39).swd.phase = .waitStart ∧ ¬ (InTolerance 39 80 ∧ InTolerance 40 80)) ∧
    (samplePeriod (sampled .waitBit 0 38 25).swd.sample ≠ 0 ∧ (sampled .waitBit 0 38 25).swd.sig = true ∧
      (25 : Int) = (sampleSecond (sampled .waitBit 0 38 25).swd.sample).toNat ∧
      (13 : Int) = (samplePeriod (sampled .waitBit 0 38 25).swd.sample).toNat - 25 ∧
      (sampled .waitBit 0 38 25).swd.phase = .waitBit ∧
      ¬ (InTolerance 25 50 ∧ (InTolerance 13 70 ∨ InTolerance 13 27))) := by
  simp only [InTolerance]; decide

/-- V-CLS-2: both fields at the lower edge. -/
theorem witness_StartSampleBeginsTheBits :
    (sampled .waitStart 0 80 40).swd.phase = .waitStart ∧ (sampled .waitStart 0 80 40).swd.sig = true ∧
    samplePeriod (sampled .waitStart 0 80 40).swd.sample ≠ 0 ∧
    (40 : Int) = (sampleSecond (sampled .waitStart 0 80 40).swd.sample).toNat ∧
    (40 : Int) = (samplePeriod (sampled .waitStart 0 80 40).swd.sample).toNat - 40 ∧
    InTolerance 40 (sampled .waitStart 0 80 40).conf.vStartLow ∧
    InTolerance 40 (sampled .waitStart 0 80 40).conf.vStartHigh := by
  simp only [InTolerance]; decide

/-- V-CLB-7 and V-CLB-6: the first sample that is a 1, which the window of 0 holds too, and the last that is only a 0; at
the first bit and at the last but one. -/
theorem witness_DataSampleStoresOneBit :
    ((sampled .waitBit 0 60 25).swd.phase = .waitBit ∧ (sampled .waitBit 0 60 25).swd.bit + 1 < State.reset.conf.nBits ∧
      (sampled .waitBit 0 60 25).swd.sig = true ∧ samplePeriod (sampled .waitBit 0 60 25).swd.sample ≠ 0 ∧
      (25 : Int) = (sampleSecond (sampled .waitBit 0 60 25).swd.sample).toNat ∧
      (35 : Int) = (samplePeriod (sampled .waitBit 0 60 25).swd.sample).toNat - 25 ∧
      InTolerance 25 50 ∧ InTolerance 35 70) ∧
    ((sampled .waitBit 38 59 25).swd.phase = .waitBit ∧ (sampled .waitBit 38 59 25).swd.bit + 1 < State.reset.conf.nBits ∧
      (sampled .waitBit 38 59 25).swd.sig = true ∧ samplePeriod (sampled .waitBit 38 59 25).swd.sample ≠ 0 ∧
      (25 : Int) = (sampleSecond (sampled .waitBit 38 59 25).swd.sample).toNat ∧
      (34 : Int) = (samplePeriod (sampled .waitBit 38 59 25).swd.sample).toNat - 25 ∧
      InTolerance 25 50 ∧ InTolerance 34 27 ∧ ¬ InTolerance 34 70) := by
  simp only [InTolerance]; decide

theorem witness_LastBitTestsTheChecksum :
    ((sampled .waitBit 39 60 25).swd.phase = .waitBit ∧ (sampled .waitBit 39 60 25).swd.bit + 1 = State.reset.conf.nBits ∧
      (sampled .waitBit 39 60 25).swd.sig = true ∧ samplePeriod (sampled .waitBit 39 60 25).swd.sample ≠ 0 ∧
      (25 : Int) = (sampleSecond (sampled .waitBit 39 60 25).swd.sample).toNat ∧
      (35 : Int) = (samplePeriod (sampled .waitBit 39 60 25).swd.sample).toNat - 25 ∧
      InTolerance 25 50 ∧ InTolerance 35 70) ∧
    ((sampled .waitBit 39 59 25).swd.phase = .waitBit ∧ (sampled .waitBit 39 59 25).swd.bit + 1 = State.reset.conf.nBits ∧
      (sampled .waitBit 39 59 25).swd.sig = true ∧ samplePeriod (sampled .waitBit 39 59 25).swd.sample ≠ 0 ∧
      (25 : Int) = (sampleSecond (sampled .waitBit 39 59 25).swd.sample).toNat ∧
      (34 : Int) = (samplePeriod (sampled .waitBit 39 59 25).swd.sample).toNat - 25 ∧
      InTolerance 25 50 ∧ InTolerance 34 27 ∧ ¬ InTolerance 34 70) := by
  simp only [InTolerance]; decide

/-- The edges 14, 34, 35, 105, and `low` at 25 and 75. -/
theorem witness_BitIsReadFromTheHighPhase :
    Config.example.vBitLow = 50 ∧ Config.example.vZeroHigh = 27 ∧ Config.example.vOneHigh = 70 ∧
    (∀ w ∈ [packSample 39 25, packSample 59 25, packSample 60 25, packSample 180 75, packSample 38 25],
      samplePeriod w ≠ 0 ∧ 25 ≤ (sampleSecond w).toNat ∧ (sampleSecond w).toNat ≤ 75) := by
  refine ⟨rfl, rfl, rfl, fun w hw => ?_⟩
  simp only [List.mem_cons, List.not_mem_nil, or_false] at hw
  rcases hw with rfl | rfl | rfl | rfl | rfl <;> decide

theorem witness_WaitExpiryEndsWithIrqTimeout :
    (Waiting (silent .waitBit) ∧ (silent .waitBit).swd.sig = false) ∧
    (Waiting (sampled .waitStart 0 160 80) ∧ (sampled .waitStart 0 160 80).swd.sig = true) := by decide

/-- A served and a held command of either caller; an SWD_DEADLINE with a free slot, and with nothing outstanding. -/
theorem witness_DeadlineCancelsOrOnlyReports :
    (∀ c ∈ [Caller.host, .loop],
      (∃ s : State, s.swd.busy = true ∧ s.cli.done = false ∧ s.run.served = some c) ∧
      (∃ s : State, s.run.held[1]? = some ⟨c, 7, false⟩) ∧
      (∃ s : State, ¬ (s.swd.busy = true ∧ s.cli.done = false) ∧ s.run.held = [⟨c, 7, false⟩])) ∧
    ¬ (State.reset.swd.busy = true ∧ State.reset.cli.done = false) ∧ State.reset.run.held = [] :=
  ⟨fun c _ => ⟨⟨{ silent .waitBit with run.served := some c }, rfl, rfl, rfl⟩,
    ⟨{ State.reset with run.held := [⟨.loop, 9, false⟩, ⟨c, 7, false⟩] }, rfl⟩,
    ⟨{ State.reset with cli.done := true, run.held := [⟨c, 7, false⟩] }, by simp, rfl⟩⟩, by decide, rfl⟩

theorem witness_CompletionReturnsTheReading :
    ∀ e ∈ [(0 : Byte), 4], ∃ s : State, s.run.served = some .host ∧ s.cli.done = true ∧ s.cli.err = e :=
  fun e _ => ⟨{ State.reset with cli.done := true, cli.err := e, run.served := some .host }, rfl, rfl, rfl⟩

/-- All three outcomes occur: V-SWD-7 for the reading. -/
theorem witness_ExchangeComputesSwdRun :
    ((silent .waitStart).swd.phase = .waitStart ∧ (silent .waitStart).swd.irqEn = true ∧
      (silent .waitStart).swd.buf = Packet.zero) ∧
    exchange Config.example [packSample 160 80] = .pending ∧
    exchange Config.example [packSample 160 80, 0] = .error 2 ∧
    exchange Config.example (packSample 100 45 ::
      ([0x02, 0x8C, 0x01, 0x5F, 0xEE] : List Byte).flatMap (fun v => (List.range 8).map (fun i =>
        if v.getLsbD (7 - i) then packSample 100 30 else packSample 85 60))) = .reading 351 652 :=
  ⟨by decide, by decide, by decide, by decide +kernel⟩

theorem witness_InitLoadsTheTable :
    (State.reset.pca.irqEn = false ∧ phaseTableOk State.reset.conf = true) ∧ inited.pca.irqEn = true ∧
    (∃ s : State, s.pca.irqEn = false ∧ phaseTableOk s.conf = false) :=
  ⟨by decide, by decide, State.resetWith { Config.example with pcaMax := 7 }, by decide⟩

/-- The levels at the ends of the three ranges: 0, PCA_MAX, 1 and PCA_MAX - 1. -/
theorem witness_SetSelectsOffOnOrPhase :
    inited.pca.irqEn = true ∧ State.reset.pca.irqEn = false ∧ ({ inited with cmd.a0 := 0 } : State).cmd.a0.toInt ≤ 0 ∧
    (inited.conf.pcaMax : Int) ≤ ({ inited with cmd.a0 := 8 } : State).cmd.a0.toInt ∧
    (0 < (1 : Word).toInt ∧ inited.pca.table[(1 : Word).toNat]? = some 57344) ∧
    ((7 : Word).toInt < (inited.conf.pcaMax : Int) ∧ inited.pca.table[(7 : Word).toNat]? = some 8192) :=
  ⟨rfl, rfl, by decide, by decide, ⟨by decide, rfl⟩, ⟨by decide, rfl⟩⟩

theorem witness_ZeroCrossingLoadsTheDelay : inited.pca.irqEn = true := by decide

/-- The lowest and the highest pair of neighbouring interior levels. -/
theorem witness_HigherLevelNeverDelaysLonger :
    phaseTableOk Config.example = true ∧
    (0 < 1 ∧ 1 < 2 ∧ 2 < Config.example.pcaMax ∧
      Config.example.pcaTable[1]? = some 57344 ∧ Config.example.pcaTable[2]? = some 49152) ∧
    (0 < 6 ∧ 6 < 7 ∧ 7 < Config.example.pcaMax ∧
      Config.example.pcaTable[6]? = some 16384 ∧ Config.example.pcaTable[7]? = some 8192) :=
  ⟨by decide, ⟨by decide, by decide, by decide, rfl, rfl⟩, ⟨by decide, by decide, by decide, rfl, rfl⟩⟩

theorem witness_ExpiryOfBRestartsC :
    ({ inited with pca.bRun := true } : State).pca.bRun = true ∧ State.reset.pca.bRun = false ∧
    ({ inited with pca.bRun := true, pca.bCnt := 65535, pca.bLoad := 65535 } : State).pca.bCnt = 65535 ∧
    pcaMode { inited with pca.width := 1 } = .phase := by decide

theorem witness_ReloadOfCBeginsAPulse :
    ({ inited with pca.cRun := true, pca.width := 1 } : State).pca.cRun = true ∧
    pcaMode { inited with pca.cRun := true, pca.width := 1 } = .phase := by decide

/-- A crossing present and none; two crossings to come, equal and different; a tick with the second crossing. -/
theorem witness_DiagnosticReadReturnsOrReportsNoSignal :
    (∀ b : Bool, ∃ s : State, s.run.pcaReadBlocked = true ∧ s.pca.sig = b) ∧
    (∀ w w' : Word, ∃ s : State, s.pca.irqEn = true ∧
      s.trace = [.issue 0x21, .event 0x90 w, .event 0x90 w']) ∧
    (∃ s : State, s.pca.irqEn = true ∧ s.pca.aFirst = false ∧ s.pca.aPrev = false ∧
      s.run.pcaReadBlocked = true ∧ s.pca.sig = true) :=
  ⟨fun b => ⟨{ inited with pca.sig := b, run.pcaReadBlocked := true }, rfl, rfl⟩,
   fun w w' => ⟨{ inited with trace := [.issue 0x21, .event 0x90 w, .event 0x90 w'] }, rfl, rfl⟩,
   ⟨{ inited with pca.aFirst := false, pca.aPrev := false, pca.sig := true, run.pcaReadBlocked := true },
     rfl, rfl, rfl, rfl, rfl⟩⟩

theorem witness_TableIsImmutable : ∃ t, inited.pca.irqEn = true ∧ step (inited.withFetchWord 8 0x93) = .next t :=
  ⟨_, rfl, rfl⟩

/-- In mode OFF and in mode ON, a zero crossing (which may start no pulse) and a tick. -/
theorem witness_OnlySetCommandsTheActuator :
    ∀ b : Bool, ∃ (s t : State) (x : Input), s.trace = [x] ∧ ¬ CommandsActuator x s ∧ step s = .next t ∧
      pcaMode s = (if b then .on else .off) := by
  intro b
  refine ⟨{ inited with pca.bypass := b, trace := [.event 0x90 0x4E2027D8] }, _, _, rfl, ?_, rfl, ?_⟩
  · simp [CommandsActuator]
  · cases b <;> rfl

theorem witness_FirstComputeSeeds : pidBase.hasPrev = false := rfl

/-- `dt` negative, 0 and positive. -/
theorem witness_LaterComputeCombinesThreeTerms :
    pidOne.hasPrev = true ∧ ((655359 : Word) - pidOne.prevTs).toInt < 0 ∧
    ((655360 : Word) - pidOne.prevTs).toInt = 0 ∧ 0 < ((786432 : Word) - pidOne.prevTs).toInt := by decide

/-- V-PID-7 and V-PID-8: a first call, and a later one with a time that has not moved. -/
theorem witness_ProportionalOnlyIsExact :
    (∃ p : Pid, p.ki = 0 ∧ p.kd = 0 ∧ p.hasPrev = false) ∧
    (∃ p : Pid, p.ki = 0 ∧ p.kd = 0 ∧ p.hasPrev = true ∧ 0 ≤ ((655360 : Word) - p.prevTs).toInt) :=
  ⟨⟨{ pidBase with ki := 0, kd := 0 }, by decide⟩, ⟨{ pidOne with ki := 0, kd := 0 }, by decide⟩⟩

theorem witness_OutputStaysWithinLimits : ∃ t : State,
    ({ ops 1376256 1638400 786432 with pid := pidOne } : State).pid.low.toInt ≤ pidOne.high.toInt ∧
    exec .pidCompute { ops 1376256 1638400 786432 with pid := pidOne } = .next t := ⟨_, by decide, rfl⟩

/-- The term above, within and below the new bounds, and `Ki = 0` (V-PID-3 is the third). -/
theorem witness_SetLimitsReclampsAtOnce :
    (∃ p : Pid, p.ki = 0) ∧ pidTwo.ki ≠ 0 ∧ pidTwo.ki.toInt * pidTwo.integral.toInt / 2 ^ 16 = 262144 ∧
    (262143 : Word).toInt < 262144 ∧ (262144 : Int) ≤ (262144 : Word).toInt ∧ (262144 : Int) < (393216 : Word).toInt :=
  ⟨⟨{ pidTwo with ki := 0 }, rfl⟩, by decide, by decide, by decide, by decide, by decide⟩

/-- V-PID-3 for PID_SET_LIMITS, V-PID-2 for PID_COMPUTE; the slack is 1 raw unit. -/
theorem witness_AntiWindupBoundsTheIntegralTerm :
    ((1 : Int) * 2 ^ 16 < |(32768 : Word).toInt| + 2 ^ 16 ∧ |(32768 : Word).toInt| ≤ 1 * 2 ^ 16) ∧
    (∃ t, exec .pidSetLimits { ops 393216 6553600 0 with pid := pidTwo } = .next t ∧
      t.pid.ki = 32768 ∧ t.pid.low.toInt ≤ t.pid.high.toInt ∧
      fits32 (pidReclamp 16 t.pid pidTwo.integral.toInt) = true) ∧
    (∃ t, exec .pidCompute { ops 1376256 1638400 786432 with pid := pidOne } = .next t ∧ pidOne.hasPrev = true ∧
      t.pid.ki = 32768 ∧ t.pid.low.toInt ≤ t.pid.high.toInt ∧
      fits32 (pidReclamp 16 t.pid (pidOne.integral.toInt + (1638400 - 1376256) * 131072 / 2 ^ 16)) = true) :=
  ⟨by decide, ⟨_, rfl, by decide, by decide, by decide⟩, ⟨_, rfl, rfl, by decide, by decide, by decide⟩⟩

theorem witness_OnlyPidOperationsMutatePid : ∃ (s t : State) (x : Input),
    s.trace = [x] ∧ ¬ CommandsPid x s ∧ step s = .next t ∧ s.pid = pidTwo :=
  ⟨{ ops 98304 147456 0 with pid := pidTwo, trace := [.issue 0x01] }, _, _, rfl, by simp [CommandsPid], rfl, rfl⟩

/-- A free lock; the sensor read with a free slot, a busy one, and the host's completion not yet taken. -/
theorem witness_LoopTickLoadsTheConfiguration :
    (State.reset.run.stage = .idle ∧ State.reset.cfgLock = false) ∧ 0 < State.reset.conf.tRcv.toInt ∧
    (∃ s : State, s.run.stage = .read ∧ s.swd.busy = false ∧ s.cli.done = false) ∧
    (∃ s : State, s.run.stage = .read ∧ s.swd.busy = true ∧ s.cli.done = false) ∧
    (∃ s : State, s.run.stage = .read ∧ s.cli.done = true ∧ s.run.served = some .host) :=
  ⟨by decide, by decide, ⟨{ State.reset with run.stage := .read }, rfl, rfl, rfl⟩,
   ⟨{ silent .waitBit with run.stage := .read }, rfl, rfl, rfl⟩,
   ⟨{ State.reset with run.stage := .read, cli.done := true, run.served := some .host }, rfl, rfl, rfl⟩⟩

/-- A bound of 0 and of 1 tick. -/
theorem witness_HeldLockSkipsTheUpdate :
    (∀ n : Nat, ∃ s : State, s.run.stage = .idle ∧ s.cfgLock = true ∧ s.conf.tLock = n) ∧
    (∃ s : State, s.run.stage = .acquire ∧ s.cfgLock = false) ∧ (∃ s : State, s.run.stage ≠ .idle) :=
  ⟨fun n => ⟨{ State.reset with cfgLock := true, conf.tLock := n }, rfl, rfl, rfl⟩,
   ⟨{ State.reset with run.stage := .acquire }, rfl, rfl⟩, ⟨{ State.reset with run.stage := .waiting }, by decide⟩⟩

theorem witness_LoopRetainsTheLastGoodReading :
    (∀ e ∈ [(0 : Byte), 2], ∃ s : State,
      s.run.stage = .waiting ∧ s.run.served = some .loop ∧ s.cli.done = true ∧ s.cli.err = e) ∧
    (∃ s : State, s.run.stage = .waiting ∧ s.run.served = some .loop ∧ s.swd.busy = true ∧ s.cli.done = false) :=
  ⟨fun e _ => ⟨{ State.reset with cli.done := true, cli.err := e, run.served := some .loop, run.stage := .waiting },
    rfl, rfl, rfl, rfl⟩, ⟨{ silent .waitStart with run.served := some .loop, run.stage := .waiting }, rfl, rfl, rfl, rfl⟩⟩

/-- Program P5's first tick: an interior level, either reading selected, either setpoint, before and after PCA_INIT; and
for a later call a time that has gone back, one that stands and one that has gone on. -/
theorem witness_LoopDrivesTheActuatorFromTheReading :
    (∀ (day init : Bool) (sel : InputSel) (p : Pid) (now : Word), ∃ s : State, s.run.stage = .compute 0 ∧
      s.loop.cfg.manual = false ∧ s.loop.haveReading = true ∧ s.conf.loopInputSel = sel ∧ s.pca.irqEn = init ∧
      s.pid = p ∧ s.ext.isDay = day ∧ s.ext.now = now) ∧
    pidBase.hasPrev = false ∧ pidOne.hasPrev = true ∧ ((655359 : Word) - pidOne.prevTs).toInt < 0 ∧
    0 ≤ ((655360 : Word) - pidOne.prevTs).toInt ∧ 0 ≤ ((655361 : Word) - pidOne.prevTs).toInt :=
  ⟨fun d i sel p now => ⟨{ inited with
      loop.haveReading := true, loop.lastTemperature := 230, run.stage := .compute 0, ext.isDay := d, ext.now := now
      conf.loopInputSel := sel, pca.irqEn := i, pid := p },
    rfl, rfl, rfl, rfl, rfl, rfl, rfl, rfl⟩, by decide⟩

theorem witness_ManualModeLeavesPidAndActuator :
    (∃ s : State, s.run.stage = .compute 0 ∧ s.loop.cfg.manual = true ∧ s.loop.haveReading = true) ∧
    (∃ s : State, s.run.stage = .compute 2 ∧ s.loop.cfg.manual = false ∧ s.loop.haveReading = false) :=
  ⟨⟨{ State.reset with loop.cfg.manual := true, loop.haveReading := true, run.stage := .compute 0 }, rfl, rfl, rfl⟩,
   ⟨{ State.reset with run.stage := .compute 2 }, rfl, rfl, rfl⟩⟩

/-- Armed for the first edge; the shortest interval, the longest, and a timeout's own count. -/
theorem witness_CaptureMeasuresLowAndPeriod :
    (∃ s : State, s.swd.irqEn = true ∧ s.cap.first = true ∧ s.cap.prev = true ∧ s.conf.tCapto ≠ 0) ∧
    (∀ v ∈ [(1, 1), (319, 1), (1, 319)], 0 < v.1 ∧ 0 < v.2 ∧ v.1 + v.2 ≤ Config.example.tCapto.toNat) ∧
    (∀ b : Bool, ∃ s : State,
      s.swd.irqEn = true ∧ s.cap.first = false ∧ s.cap.cnt = 0 ∧ s.cap.prev = b ∧ s.conf = Config.example) ∧
    0 < Config.example.tCapto.toNat :=
  ⟨⟨{ silent .waitStart with cap.first := true }, rfl, rfl, rfl, by decide⟩, by decide,
   fun b => ⟨{ silent .waitBit with cap.prev := b }, rfl, rfl, rfl, rfl, rfl⟩, by decide⟩

/-- Counter A before and after its first edge, the shortest and the longest interval; for B and C a load of 0, the largest
load, and the two clauses of each. -/
theorem witness_CountersFireOnTheirTick :
    (∀ b : Bool, ∃ s : State, s.pca.irqEn = true ∧ s.pca.aFirst = b ∧ s.pca.aPrev = !b ∧ s.pca.aCnt = 0) ∧
    (∀ v ∈ [(1, 1), (65534, 1), (1, 65534)], 0 < v.1 ∧ 0 < v.2 ∧ v.1 + v.2 < 2 ^ 16) ∧
    (∀ load ∈ [(0 : Half), 65535], ∃ s : State, s.pca.bRun = true ∧ s.pca.bCnt = 0 ∧ s.pca.bLoad = load) ∧
    (∀ reload ∈ [(0 : Half), 65535], ∃ s : State,
      s.pca.bRun = false ∧ s.pca.cRun = true ∧ s.pca.cCnt = 0 ∧ s.pca.bypass = false ∧ s.pca.cReload = reload) :=
  ⟨fun b => ⟨{ inited with pca.aFirst := b, pca.aPrev := !b }, rfl, rfl, rfl, rfl⟩, by decide,
   fun l _ => ⟨{ inited with pca.bRun := true, pca.bLoad := l }, rfl, rfl, rfl⟩,
   fun r _ => ⟨{ inited with pca.cRun := true, pca.cReload := r }, rfl, rfl, rfl, rfl, rfl⟩⟩

/-- A pulse of two ticks, after one and after two. -/
theorem witness_StartPulseLastsItsTimer :
    ∀ ps ∈ [[(false, false, false)], [(true, false, false), (false, true, true)]], ∃ s : State,
      s.swd.phase = .startPulse ∧ s.swd.lineDrive = true ∧ s.swd.irqEn = false ∧ s.run.freshStart = false ∧
      s.run.freshRcv = false ∧ s.swd.tWait = 0 ∧ 0 < ps.length ∧ ps.length ≤ s.swd.tStart.toNat ∧
      s.swd.tStart.toNat < s.swd.tRcv.toNat := by
  intro ps hps
  refine ⟨{ State.reset with
    swd.phase := .startPulse, swd.lineDrive := true, swd.busy := true, swd.tStart := 2, swd.tRcv := 3 },
    rfl, rfl, rfl, rfl, rfl, rfl, ?_⟩
  simp only [List.mem_cons, List.not_mem_nil, or_false] at hps
  rcases hps with rfl | rfl <;> decide

/-- A sample that completes the exchange on the deadline's tick, and one that does not. -/
theorem witness_CompletionBeatsTheDeadline :
    ∀ b : Bool, ∃ s t : State, s.swd.busy = true ∧ Waiting s ∧ s.swd.sig = true ∧ exec .swdConsume s = .next t ∧
      t.cli.done = b
  | true => ⟨sampled .waitBit 39 77 50, _, rfl, by decide, rfl, rfl, by decide⟩
  | false => ⟨sampled .waitBit 38 77 50, _, rfl, by decide, rfl, rfl, by decide⟩

theorem witness_ResetMeetsTheInvariants : 0 < Config.example.nBits := by decide

/-- A state in the middle of an exchange that the LOOP task is blocked in, on the brink of a sample. -/
def midExchange : State :=
  { silent .waitBit with
    swd.bit := 3, swd.tWait := 1500, swd.tRcv := 7000, run.served := some .loop, run.stage := .waiting
    trace := [.event 0x80 0x004D0032] }

theorem midExchange_swdInv : SwdInv midExchange where
  bits_pos := by decide
  busy_iff := by decide
  irq_iff := by decide
  drive_iff := by decide
  bit_le := by decide
  bit_lt := by decide
  buf_clear := fun _ i _ hi => packetBit_zero hi
  buf_zero := by decide
  done_free := by decide
  served_iff := by decide
  start_timer := by decide
  wait_timer := by decide
  rcv_timer := by decide

theorem witness_StepKeepsTheDecoderInvariant : ∃ t, SwdInv midExchange ∧ step midExchange = .next t :=
  ⟨_, midExchange_swdInv, rfl⟩

/-- In the middle of an exchange; and a wait for the lock with one tick left to count. -/
theorem witness_StepKeepsTheLoopInvariant :
    (∃ t, SwdInv midExchange ∧ LoopInv midExchange ∧ LockWaitBounded midExchange ∧ step midExchange = .next t) ∧
    (∃ s : State, s.run.stage = .acquire ∧ s.run.tLock = 1 ∧ LockWaitBounded s) :=
  ⟨⟨_, midExchange_swdInv, ⟨by decide, by decide⟩, by simp [LockWaitBounded, midExchange], rfl⟩,
   ⟨{ State.reset with run.stage := .acquire, run.tLock := 1 }, rfl, rfl, by simp [LockWaitBounded]⟩⟩

/-- An initialised actuator in mode PHASE, on the tick of a zero crossing. -/
theorem witness_StepKeepsTheActuatorInvariant : ∃ s t : State, PcaInv s ∧ step s = .next t ∧ pcaMode s = .phase :=
  ⟨{ inited with pca.width := 100, trace := [.event 0x90 0x4E2027D8] }, _,
    { table_eq := by decide, table_ok := by decide, entry_le := by decide, width_eq := by decide
      bypass_width := by decide, before_init := by decide, read_timer := by decide }, rfl, rfl⟩

/-- A command refused, an exchange that ended with an error, a tick. -/
theorem witness_ErrorsNeverHaltTheCore :
    (∃ s : State, s.trace = [.tick false false false]) ∧
    (∃ (s : State) (r : Refusal), s.trace = [.issue 0x20] ∧ step s = .refused r) ∧
    ((sampled .waitBit 0 300 50).run.served = some .host ∧ 0 < (1 : Word).toInt) ∧
    (∃ s t : State, step s = .next t) :=
  ⟨⟨{ State.reset with trace := [.tick false false false] }, rfl⟩,
   ⟨{ State.reset with trace := [.issue 0x20] }, _, rfl, rfl⟩, by decide, ⟨State.reset, _, rfl⟩⟩

end Sys2Proof.Tests
end

section
/-!
SUPPORT. SWD_IRQ_CAPTURE (41_sensor_decoder.md R138): its code word, its next state while its enable is 1, its refusal while
it is 0.
-/
namespace Sys2Proof.Machine

/-- The decoder of 30_encoding.md R96 takes the capture's payload apart as R82 packs it. -/
theorem decode_captureEvent_packSample (period low : Half) :
    decode (.event 0x80 (packSample period low)) = .ok (.swdIrqCapture period low) := by
  have hsplit : decode (.event 0x80 (packSample period low)) =
      .ok (.swdIrqCapture (samplePeriod (packSample period low)) (sampleSecond (packSample period low))) := rfl
  rw [hsplit, samplePeriod_packSample, sampleSecond_packSample]

theorem exec_swdIrqCapture_enabled {s : State} {period : Half} (low : Half) (hp : period ≠ 0)
    (hen : s.swd.irqEn = true) :
    exec (.swdIrqCapture period low) s = .next (storeSample (packSample period low) s) := by
  change execSwdIrqCapture period low s = _
  rw [execSwdIrqCapture, if_neg hp, if_pos hen]

theorem exec_swdIrqCapture_disabled {s : State} {period : Half} (low : Half) (hp : period ≠ 0)
    (hen : s.swd.irqEn = false) :
    exec (.swdIrqCapture period low) s = .refused .swdInterruptsDisabled := by
  change execSwdIrqCapture period low s = _
  rw [execSwdIrqCapture, if_neg hp, if_neg (Bool.eq_false_iff.mp hen)]

/-- Settles O16: the word is the packed pair; `storeSample` writes `swd.sample` and `swd.sig` and no other field. -/
theorem captureOverwritesAndSignals : Obligations.CaptureOverwritesAndSignals := by
  intro s period low hp
  exact ⟨packSample period low, samplePeriod_packSample period low, sampleSecond_packSample period low,
    decode_captureEvent_packSample period low, exec_swdIrqCapture_enabled low hp, exec_swdIrqCapture_disabled low hp⟩

end Sys2Proof.Machine
end

section
/-!
SUPPORT. PCA_B_EXPIRE (42_phase_actuator.md R169): its next state while Counter B runs, its refusal while it does not, the
tick it occurs on, and the pulse that Counter C at 0 gives in mode PHASE (R168).
-/
namespace Sys2Proof.Machine

theorem exec_pcaBExpire_running {s : State} (hb : s.pca.bRun = true) : exec .pcaBExpire s = .next (bExpire s) := by
  change execPcaBExpire s = _
  rw [execPcaBExpire, if_pos hb]

theorem exec_pcaBExpire_stopped {s : State} (hb : s.pca.bRun = false) :
    exec .pcaBExpire s = .refused .counterBStopped := by
  change execPcaBExpire s = _
  rw [execPcaBExpire, if_neg (Bool.eq_false_iff.mp hb)]

theorem countersBC_bAtLoad {s : State} (hb : s.pca.bRun = true) (hl : s.pca.bCnt = s.pca.bLoad) :
    countersBC s = bExpire s := by
  rw [countersBC, if_pos hb, if_pos hl]

/-- The pulse width is not 0 in mode PHASE (10_state.md R31). -/
theorem width_pos_of_pcaMode_phase {s : State} (h : pcaMode s = .phase) : 0 < s.pca.width.toNat := by
  have hw : s.pca.width ≠ 0 := by
    intro h0
    cases hby : s.pca.bypass <;> simp [pcaMode, hby, h0] at h
  exact Nat.pos_of_ne_zero fun h0 => hw (BitVec.eq_of_toNat_eq h0)

/-- A running Counter C drives the triac while it stands at 0, if there is a pulse width (R168). -/
theorem pcaDrive_of_cCnt_zero {s : State} (hrun : s.pca.cRun = true) (hcnt : s.pca.cCnt = 0)
    (hw : 0 < s.pca.width.toNat) : pcaDrive s = true := by
  simp [pcaDrive, hrun, hcnt, hw]

/-- Settles O33: event and tick both do `bExpire`, which leaves Counter C running at 0 and the pulse width as it was. -/
theorem expiryOfBRestartsC : Obligations.ExpiryOfBRestartsC := by
  refine ⟨rfl, fun s t ht => ?_⟩
  obtain rfl : t = bExpire s := ht
  exact ⟨exec_pcaBExpire_running, exec_pcaBExpire_stopped, countersBC_bAtLoad,
    fun hm => pcaDrive_of_cCnt_zero rfl rfl (width_pos_of_pcaMode_phase hm)⟩

end Sys2Proof.Machine
end

section
/-!
SUPPORT. The three code spaces (30_encoding.md R84, R95, R96): `encode` is the one right inverse of `decode`.
-/
namespace Sys2Proof.Machine

theorem bareEvent_ok {i j : Instr} {p : Word} (h : bareEvent i p = .ok j) : p = 0 ∧ i = j := by
  unfold bareEvent at h
  split at h
  · exact ⟨‹p = 0›, Except.ok.inj h⟩
  · cases h

/-- Every instruction's word decodes to it; the two payloads survive by `decode_captureEvent_packSample`'s argument. -/
theorem decode_encode (i : Instr) : decode (encode i) = .ok i := by
  cases i with
  | swdIrqCapture period low => exact decode_captureEvent_packSample period low
  | pcaIrqZc period offset =>
    have hsplit : decode (encode (.pcaIrqZc period offset)) =
        .ok (.pcaIrqZc (samplePeriod (packSample period offset)) (sampleSecond (packSample period offset))) := rfl
    rw [hsplit, samplePeriod_packSample, sampleSecond_packSample]
  | _ => rfl

theorem command_eq_encode {op : Byte} {i : Instr} (h : decodeCommand op = .ok i) : .command op = encode i := by
  unfold decodeCommand at h
  split at h <;> cases h <;> exact congrArg CodeWord.command (BitVec.eq_of_toNat_eq ‹_›)

theorem symbol_eq_encode {code : BitVec 3} {i : Instr} (h : decodeSymbol code = .ok i) : .symbol code = encode i := by
  unfold decodeSymbol at h
  split at h <;> cases h <;> exact congrArg CodeWord.symbol (BitVec.eq_of_toNat_eq ‹_›)

theorem event_eq {code code' : Byte} {p p' : Word} (hc : code.toNat = code'.toNat) (hp : p = p') :
    CodeWord.event code p = .event code' p' := by
  rw [BitVec.eq_of_toNat_eq hc, hp]

/-- The two payload events by `packSample_parts`, the bare ones by `bareEvent_ok`. -/
theorem event_eq_encode {code : Byte} {p : Word} {i : Instr} (h : decodeEvent code p = .ok i) :
    .event code p = encode i := by
  unfold decodeEvent at h
  split at h
  case h_1 | h_7 =>
    cases h
    exact event_eq ‹_› (packSample_parts p).symm
  case h_11 => cases h
  all_goals
    obtain ⟨hp, rfl⟩ := bareEvent_ok h
    exact event_eq ‹_› hp

theorem eq_encode_of_decode {w : CodeWord} {i : Instr} (h : decode w = .ok i) : w = encode i := by
  cases w with
  | command op => exact command_eq_encode h
  | event code p => exact event_eq_encode h
  | symbol code => exact symbol_eq_encode h

/-- Settles O1: `encode` is a right inverse of `decode`, and a word that decodes is its instruction's word. -/
theorem eachInstructionHasOneCodeWord : Obligations.EachInstructionHasOneCodeWord := by
  intro w i
  constructor
  · exact eq_encode_of_decode
  · rintro rfl
    exact decode_encode i

/-- Settles O2: each word is the `encode` of its instruction, so this is nine instances of O1. -/
theorem tableCodesDecode : Obligations.TableCodesDecode :=
  ⟨decode_encode .fxMul, decode_encode .swdRead, decode_encode .pcaInit, decode_encode .pidSetCoef,
    decode_encode .loopTick, decode_encode (.swdIrqCapture 160 80), decode_encode (.pcaIrqZc 20000 10200),
    decode_encode .swdConsume, decode_encode .symBit1⟩

end Sys2Proof.Machine
end

section
/-!
SUPPORT. Which unit an instruction belongs to, and what it leaves of the other units: one frame per unit, so that a claim
about one unit looks at that unit's instructions only.
-/
namespace Sys2Proof

/-- The units of the core (00_scope.md R2): fixed point, single-wire decoder, actuator, PID, control loop. -/
inductive CoreUnit where
  | fxp | swd | pca | pid | loop
  deriving DecidableEq

/-- The unit of an instruction: the section of the tables it stands in (30_encoding.md R84, R95, R96). -/
def Instr.unit : Instr → CoreUnit
  | .fxAdd | .fxSub | .fxMul | .fxDiv | .fxFromInt | .fxToInt | .fxClamp | .fxParse | .fxFormat => .fxp
  | .swdRead | .swdIrqCapture _ _ | .swdIrqCapto | .swdStartDone | .swdConsume | .swdWaitExpire | .swdDeadline => .swd
  | .symInvalid | .symStart | .symBit0 | .symBit1 | .symTimeout => .swd
  | .pcaSet | .pcaRead | .pcaInit | .pcaIrqZc _ _ | .pcaBExpire | .pcaCReload | .pcaReadExpire => .pca
  | .pidCompute | .pidSetCoef | .pidSetLimits => .pid
  | .loopTick => .loop

namespace Machine

/-- What the decoder's invariants read: its registers, the completion signal, and who is served. -/
def SwdSame (s t : State) : Prop :=
  t.swd = s.swd ∧ t.cli.done = s.cli.done ∧ t.run.served = s.run.served

/-- Whose SWD_READ is served and whose are held. -/
def ReadersSame (s t : State) : Prop := t.run.served = s.run.served ∧ t.run.held = s.run.held

/-- What the actuator's invariants read. -/
def PcaSame (s t : State) : Prop := t.pca = s.pca ∧ t.run.pcaReadBlocked = s.run.pcaReadBlocked

/-- Where the LOOP task stands and its lock timer. -/
def LoopSame (s t : State) : Prop := t.run.stage = s.run.stage ∧ t.run.tLock = s.run.tLock

theorem exec_conf (i : Instr) (s : State) : IfNext (fun t => t.conf = s.conf) (exec i s) := by
  cases i <;> simp [exec]

theorem exec_swd_frame {i : Instr} (hi : i.unit ≠ .swd) (s : State) : IfNext (SwdSame s) (exec i s) := by
  cases i with
  | swdRead | swdIrqCapture _ _ | swdIrqCapto | swdStartDone | swdConsume | swdWaitExpire | swdDeadline =>
    exact absurd rfl hi
  | symInvalid | symStart | symBit0 | symBit1 | symTimeout => exact absurd rfl hi
  | _ => simp [exec, SwdSame]

theorem exec_pca_frame {i : Instr} (hi : i.unit ≠ .pca) (s : State) : IfNext (PcaSame s) (exec i s) := by
  cases i with
  | pcaSet | pcaRead | pcaInit | pcaIrqZc _ _ | pcaBExpire | pcaCReload | pcaReadExpire => exact absurd rfl hi
  | _ => simp [exec, PcaSame]

theorem exec_pid_frame {i : Instr} (hi : i.unit ≠ .pid) (s : State) : IfNext (fun t => t.pid = s.pid) (exec i s) := by
  cases i with
  | pidCompute | pidSetCoef | pidSetLimits => exact absurd rfl hi
  | _ => simp [exec]

/-- LOOP_TICK moves the LOOP task; so does SWD_DEADLINE where the task's own read ends by it. -/
theorem exec_loop_frame {i : Instr} (hi : i ≠ .loopTick) (hd : i ≠ .swdDeadline) (s : State) :
    IfNext (LoopSame s) (exec i s) := by
  cases i with
  | loopTick => exact absurd rfl hi
  | swdDeadline => exact absurd rfl hd
  | _ => simp [exec, LoopSame]

/-- SWD_READ brings a reader in, SWD_DEADLINE sends one away. -/
theorem exec_readers_frame {i : Instr} (hi : i ≠ .swdRead) (hd : i ≠ .swdDeadline) (s : State) :
    IfNext (ReadersSame s) (exec i s) := by
  cases i with
  | swdRead => exact absurd rfl hi
  | swdDeadline => exact absurd rfl hd
  | _ => simp [exec, ReadersSame]

end Machine
end Sys2Proof
end

section
/-!
SUPPORT. The induction behind every claim "each step keeps P": P passes every kind of input and the acceptance of a held
read, so it passes a step. And what the pieces of a tick leave of the model's own record.
-/
namespace Sys2Proof.Machine

theorem IfNext.and {P Q : State → Prop} {r : Result} (hp : IfNext P r) (hq : IfNext Q r) :
    IfNext (fun t => P t ∧ Q t) r := ifNext_iff.mpr fun _ ht => ⟨hp.of_eq ht, hq.of_eq ht⟩

/-- P is kept by everything a step is made of, and does not look at what the outside writes. -/
structure StepInvariant (P : State → Prop) : Prop where
  ports : ∀ s cmd ext lock trace, P s → P { s with cmd := cmd, ext := ext, cfgLock := lock, trace := trace }
  exec : ∀ s i, P s → IfNext P (exec i s)
  due : ∀ s, P s → P (readDue s)
  tick : ∀ s low zc consume, P s → P (tick low zc consume s)
  take : ∀ s, s.run.served = some .host → s.cli.done = true → P s → P (takeCompletion s)
  loop : ∀ s, P s → IfNext P (loopStep s)
  skip : ∀ s, s.run.stage = .acquire → P s → P (skipConfig s)
  held : ∀ s k h, s.run.held[k]? = some h → P s → P (cancelHeld h (s.run.held.eraseIdx k) s)
  settle : ∀ s, P s → P (settle s)

variable {P : State → Prop}

theorem StepInvariant.runInput (H : StepInvariant P) {s : State} (h : P s) (x : Input) : IfNext P (runInput x s) := by
  cases x with
  | writeA0 | writeA1 | writeA2 | writeStr | lockGive | extCfg | extIsDay | extNow => exact H.ports s _ _ _ _ h
  | issue op =>
    exact (issueCommand_ifNext op).mpr
      ⟨fun i _ => H.exec _ i (H.ports s _ _ _ _ h), fun _ _ => H.ports s _ _ _ _ h⟩
  | event code payload =>
    exact (raiseEvent_ifNext code payload).mpr fun i _ => H.exec _ i (beforeEvent_ind i h (H.due s h))
  | tick low zc consume => exact H.tick s low zc consume h
  | swdReturn => exact hostCompletes_ifNext.mpr fun hs hd => H.take s hs hd h
  | pcaReturn => exact pcaCompletes_ifNext.mpr fun hb hs => readDue_due hb hs ▸ H.due s h
  | loopStep => exact H.loop s h
  | lockExpire => exact lockExpires_ifNext.mpr fun ha _ => H.skip s ha h
  | heldExpire k => exact (heldDeadline_ifNext k).mpr fun x hx => H.held s k x hx h
  | lockTake => exact lockTaken_ifNext.mpr fun _ => H.ports s _ _ _ _ h

theorem StepInvariant.step (H : StepInvariant P) {s : State} (h : P s) : IfNext P (step s) := by
  refine step_ifNext.mpr ⟨fun _ => h, fun x rest _ => ?_⟩
  exact (H.runInput (H.ports s _ _ _ rest h) x).mono H.settle

/-! ### The pieces of a tick -/

/-- Of the model's own record the window's expiry changes the block only. -/
theorem readTimer_run (due : Bool) (s : State) :
    (readTimer due s).run = { s.run with pcaReadBlocked := (readTimer due s).run.pcaReadBlocked } := by
  unfold readTimer
  split <;> rfl

@[simp] theorem readTimer_served (due : Bool) (s : State) : (readTimer due s).run.served = s.run.served := by
  rw [readTimer_run]
@[simp] theorem readTimer_held (due : Bool) (s : State) : (readTimer due s).run.held = s.run.held := by
  rw [readTimer_run]
@[simp] theorem readTimer_stage (due : Bool) (s : State) : (readTimer due s).run.stage = s.run.stage := by
  rw [readTimer_run]
@[simp] theorem readTimer_tLock (due : Bool) (s : State) : (readTimer due s).run.tLock = s.run.tLock := by
  rw [readTimer_run]

/-- The lock's bound moves the LOOP task and stops its timer, no more. -/
theorem lockTimer_run (due : Bool) (s : State) :
    (lockTimer due s).run =
      { s.run with stage := (lockTimer due s).run.stage, tLock := (lockTimer due s).run.tLock } := by
  unfold lockTimer
  split_ifs <;> rfl

@[simp] theorem lockTimer_served (due : Bool) (s : State) : (lockTimer due s).run.served = s.run.served := by
  rw [lockTimer_run]
@[simp] theorem lockTimer_held (due : Bool) (s : State) : (lockTimer due s).run.held = s.run.held := by
  rw [lockTimer_run]

/-- The tick on which a timer expires leaves it at 0. -/
theorem countDown_of_expiresNow {n : Nat} {fresh : Bool} {t : BitVec n} (h : expiresNow fresh t = true) :
    countDown fresh t = 0 := by
  obtain ⟨hf, ht⟩ : fresh = false ∧ t = 1 := by simpa [expiresNow] using h
  simp [countDown, hf, ht]

/-- The deadline of the served command at the end of a tick: it cancels, or the sequencer has its turn. -/
theorem deadlineTimer_cases (due consume : Bool) (s : State) :
    (deadlineTimer due consume s = cancelServed s ∧ s.swd.busy = true) ∨
      deadlineTimer due consume s = sequencerTurn consume s := by
  unfold deadlineTimer
  dsimp only
  split
  · exact .inl ⟨rfl, ‹_ ∧ _ ∧ _›.2.1⟩
  · exact .inr rfl

end Sys2Proof.Machine
end

section
/-!
SUPPORT. Every step keeps the decoder's invariants (41_sensor_decoder.md R145).
-/
namespace Sys2Proof.Machine

theorem SwdInv.stopStartTimer {s : State} (h : SwdInv s) : SwdInv { s with swd.tStart := 0 } :=
  { h with start_timer := fun hne => absurd rfl hne }

theorem SwdInv.consumed {s : State} (h : SwdInv s) : IfNext SwdInv (execSwdConsume s) :=
  execSwdConsume_ifNext.mpr fun hw _ => h.consume hw

theorem SwdInv.symbol {s : State} (h : SwdInv s) (sym : Symbol) : IfNext SwdInv (runSymbol sym s) :=
  (runSymbol_ifNext sym).mpr fun hw _ _ => h.consume hw

theorem SwdInv.waitExpired {s : State} (h : SwdInv s) : IfNext SwdInv (execSwdWaitExpire s) := by
  refine execSwdWaitExpire_ifNext.mpr fun hw _ => ?_
  obtain ⟨_, _, hdrive, _, hserved, _⟩ := h.waiting_facts hw
  exact SwdInv.finish hserved h.bits_pos h.bit_le hdrive _

/-- The decoder's instructions one by one; any other leaves its registers. -/
theorem SwdInv.exec {s : State} (h : SwdInv s) (i : Instr) : IfNext SwdInv (exec i s) := by
  by_cases hi : i.unit = .swd
  · cases i with
    | swdRead => exact h.submit _ _ _
    | swdIrqCapture p q => exact (execSwdIrqCapture_ifNext p q).mpr fun _ _ => h.storeSample _
    | swdIrqCapto => exact execSwdIrqCapto_ifNext.mpr fun _ => h.storeSample _
    | swdStartDone => exact execSwdStartDone_ifNext.mpr fun hp => h.stopStartTimer.startDone hp rfl
    | swdConsume => exact h.consumed
    | swdWaitExpire => exact h.waitExpired
    | swdDeadline =>
      exact execSwdDeadline_ifNext.mpr ⟨fun hb _ => h.cancel hb, fun _ _ _ _ => h.congr rfl rfl rfl⟩
    | symInvalid | symStart | symBit0 | symBit1 | symTimeout => exact h.symbol _
    | _ => cases hi
  · have hkeep := ifNext_iff.mp (exec_swd_frame hi s)
    have hconf := ifNext_iff.mp (exec_conf i s)
    refine ifNext_iff.mpr fun t ht => ?_
    obtain ⟨hswd, hdone, hserved⟩ := hkeep t ht
    exact h.congr hswd hdone hserved (hconf t ht)

theorem SwdInv.counterA {s : State} (h : SwdInv s) (zc : Bool) : SwdInv (counterA zc s) :=
  h.congr (by simp) (by simp) (by simp)
theorem SwdInv.countersBC {s : State} (h : SwdInv s) : SwdInv (countersBC s) := h.congr (by simp) (by simp) (by simp)
theorem SwdInv.readTimer {s : State} (h : SwdInv s) (due : Bool) : SwdInv (readTimer due s) :=
  h.congr (by simp) (by simp) (by simp)
theorem SwdInv.lockTimer {s : State} (h : SwdInv s) (due : Bool) : SwdInv (lockTimer due s) :=
  h.congr (by simp) (by simp) (by simp)
theorem SwdInv.heldTimers {s : State} (h : SwdInv s) : SwdInv (heldTimers s) :=
  h.congr (heldTimers_swd s) (heldTimers_cli_done s) (heldTimers_served s)

/-- In the order of the tick (R151): pins, timers and counters, deadlines and sequencer. -/
theorem SwdInv.tick {s : State} (h : SwdInv s) (low zc consume : Bool) : SwdInv (tick low zc consume s) := by
  have pins := ((h.hostTurn zc).captureUnit (linePin low (Machine.hostTurn zc s))).counterA zc
  have timers := (pins.countTimers.startTimer _ countDown_of_expiresNow).waitTimer
  exact ((((timers _).countersBC.readTimer _).lockTimer _).heldTimers).deadlineTimer _ _

/-- The LOOP task touches the decoder in two stages only: it issues its SWD_READ, and it takes the completion. -/
theorem SwdInv.loopStep {s : State} (h : SwdInv s) : IfNext SwdInv (loopStep s) := by
  refine loopStep_ifNext.mpr
    ⟨fun _ _ => h.congr rfl rfl rfl, fun _ => h.congr rfl rfl rfl, fun _ => h.congr rfl rfl rfl,
      fun _ => h.congr rfl rfl rfl, fun _ => h.congr rfl rfl rfl, fun _ => ?_, fun _ _ hd => ?_,
      fun _ _ => h.congr (by simp) (by simp) (by simp), fun st _ _ _ => ?_, fun _ _ _ => h.congr rfl rfl rfl,
      fun st out _ => ?_, fun _ _ => h.congr rfl rfl rfl⟩
  · exact (h.congr rfl rfl rfl : SwdInv { s with run.stage := .waiting }).submit _ _ _
  · exact (h.take hd).congr rfl rfl rfl
  · exact (pidStep_ifNext _ _ _).mpr ⟨fun _ => h.congr rfl rfl rfl, fun _ _ _ _ => h.congr rfl rfl rfl⟩
  · exact (setLevel_ifNext _).mpr fun _ =>
      ⟨fun _ => h.congr rfl rfl rfl, fun _ _ => h.congr rfl rfl rfl, fun _ _ => h.congr rfl rfl rfl⟩

theorem swdInv_stepInvariant : StepInvariant SwdInv where
  ports _ _ _ _ _ h := h.congr rfl rfl rfl
  exec _ i h := h.exec i
  due _ h := h.readDue
  tick _ low zc consume h := h.tick low zc consume
  take _ _ hd h := h.take hd
  loop _ h := h.loopStep
  skip _ _ h := h.congr rfl rfl rfl
  held _ _ _ _ h := h.congr rfl rfl rfl
  settle _ h := h.settle

/-- Settles O57. -/
theorem stepKeepsTheDecoderInvariant : Obligations.StepKeepsTheDecoderInvariant :=
  fun _ _ h hstep => (swdInv_stepInvariant.step h).of_eq hstep

end Sys2Proof.Machine
end

section
/-!
SUPPORT. Every step keeps the actuator's invariants (42_phase_actuator.md R162 to R171), the phase table, once built, and
the parameters.
-/
namespace Sys2Proof.Machine

theorem PcaInv.init {s : State} (h : PcaInv s) : IfNext PcaInv (execPcaInit s) := by
  refine execPcaInit_ifNext.mpr fun _ hok => ?_
  exact {
    table_eq := fun _ => rfl
    table_ok := fun _ => hok
    entry_le := phaseTable_entry_le hok 0
    width_eq := .inl rfl
    bypass_width := fun _ => rfl
    before_init := fun hf => by cases hf
    read_timer := h.read_timer }

/-- The actuator's instructions one by one; any other leaves its registers. -/
theorem PcaInv.exec {s : State} (h : PcaInv s) (i : Instr) : IfNext PcaInv (exec i s) := by
  by_cases hi : i.unit = .pca
  · cases i with
    | pcaSet => exact h.setLevel _
    | pcaInit => exact h.init
    | pcaRead => exact h.same rfl rfl rfl rfl rfl rfl h.bRun_irq h.cRun_irq fun _ => rfl
    | pcaIrqZc p q => exact (execPcaIrqZc_ifNext p q).mpr fun hen => h.zeroCrossing p q hen
    | pcaBExpire => exact execPcaBExpire_ifNext.mpr fun hb => h.bExpire hb
    | pcaCReload => exact execPcaCReload_ifNext.mpr fun _ => h.cReload
    | pcaReadExpire => exact execPcaReadExpire_ifNext.mpr fun _ _ => h.readExpires
    | _ => cases hi
  · have hkeep := ifNext_iff.mp (exec_pca_frame hi s)
    have hconf := ifNext_iff.mp (exec_conf i s)
    refine ifNext_iff.mpr fun t ht => ?_
    obtain ⟨hpca, hblocked⟩ := hkeep t ht
    exact h.congr (hconf t ht) hpca hblocked

theorem PcaInv.captureUnit {s : State} (h : PcaInv s) (line : Bool) : PcaInv (captureUnit line s) :=
  h.congr (by simp) (by simp) (by simp)
theorem PcaInv.countTimers {s : State} (h : PcaInv s) : PcaInv (countTimers s) :=
  h.same rfl rfl rfl rfl rfl rfl h.bRun_irq h.cRun_irq fun hne => h.read_timer (countDown_ne hne)
theorem PcaInv.startTimer {s : State} (h : PcaInv s) (due : Bool) : PcaInv (startTimer due s) :=
  h.congr (by simp) (by simp) (by simp)
theorem PcaInv.waitTimer {s : State} (h : PcaInv s) (due : Bool) : PcaInv (waitTimer due s) :=
  h.congr (by simp) (by simp) (by simp)
theorem PcaInv.lockTimer {s : State} (h : PcaInv s) (due : Bool) : PcaInv (lockTimer due s) :=
  h.congr (by simp) (by simp) (by simp)
theorem PcaInv.heldTimers {s : State} (h : PcaInv s) : PcaInv (heldTimers s) :=
  h.congr (by simp) (by simp) (by simp)
theorem PcaInv.deadlineTimer {s : State} (h : PcaInv s) (due consume : Bool) : PcaInv (deadlineTimer due consume s) :=
  h.congr (by simp) (by simp) (by simp)

/-- In the order of the tick (R151): pins, timers and counters, deadlines and sequencer. -/
theorem PcaInv.tick {s : State} (h : PcaInv s) (low zc consume : Bool) : PcaInv (tick low zc consume s) := by
  have pins := ((h.hostTurn zc).captureUnit (linePin low (Machine.hostTurn zc s))).counterA zc
  exact ((((((pins.countTimers.startTimer _).waitTimer _).countersBC).readTimer _).lockTimer _).heldTimers).deadlineTimer _ _

/-! ### What the LOOP task leaves of the actuator, of the PID and of the parameters -/

/-- The LOOP task touches the actuator only where its next operation is PCA_SET. -/
theorem loopStep_pca_frame {s : State} (hs : ∀ st out, s.run.stage ≠ .set st out) :
    IfNext (PcaSame s) (loopStep s) := by
  cases hst : s.run.stage with
  | set st out => exact absurd hst (hs st out)
  | _ => simp [hst, PcaSame]

theorem loopStep_conf (s : State) : IfNext (fun t => t.conf = s.conf) (loopStep s) := by
  cases hst : s.run.stage <;> simp [hst]

theorem PcaInv.loopStep {s : State} (h : PcaInv s) : IfNext PcaInv (loopStep s) := by
  cases hst : s.run.stage with
  | set st out =>
    have hset := h.setLevel (loopLevel s.conf.fxFrac out)
    simp only [Machine.loopStep, hst, ifNext_andThen]
    exact hset.mono fun t ht => ht.congr rfl rfl rfl
  | _ =>
    have hkeep := ifNext_iff.mp (loopStep_pca_frame (s := s) (by simp [hst]))
    have hconf := ifNext_iff.mp (loopStep_conf s)
    exact ifNext_iff.mpr fun t ht => h.congr (hconf t ht) (hkeep t ht).1 (hkeep t ht).2

theorem pcaInv_stepInvariant : StepInvariant PcaInv where
  ports _ _ _ _ _ h := h.congr rfl rfl rfl
  exec _ i h := h.exec i
  due _ h := h.readDue
  tick _ low zc consume h := h.tick low zc consume
  take _ _ _ h := h.congr (by simp) (by simp) (by simp)
  loop _ h := h.loopStep
  skip _ _ h := h.congr rfl rfl rfl
  held _ _ _ _ h := h.congr rfl rfl rfl
  settle _ h := h.congr (by simp) (by simp) (by simp)

/-- Settles O58. -/
theorem stepKeepsTheActuatorInvariant : Obligations.StepKeepsTheActuatorInvariant :=
  fun _ _ h hstep => (pcaInv_stepInvariant.step h).of_eq hstep

/-! ### The phase table and the parameters -/

/-- Initialised with the table `table` (10_state.md R36). -/
def TableIs (table : List Word) (s : State) : Prop := s.pca.irqEn = true ∧ s.pca.table = table

theorem TableIs.setLevel {table : List Word} {s : State} (h : TableIs table s) (v : Word) :
    IfNext (TableIs table) (setLevel v s) :=
  (setLevel_ifNext v).mpr fun _ => ⟨fun _ => h, fun _ _ => h, fun _ _ => h⟩

/-- Dimmer Command State, the table and the enable are as they were. -/
structure CommandSame (s t : State) : Prop where
  level : t.pca.level = s.pca.level
  entry : t.pca.phaseEntry = s.pca.phaseEntry
  width : t.pca.width = s.pca.width
  bypass : t.pca.bypass = s.pca.bypass
  table : t.pca.table = s.pca.table
  irqEn : t.pca.irqEn = s.pca.irqEn

theorem CommandSame.of_pca {s t : State} (h : t.pca = s.pca) : CommandSame s t := by
  constructor <;> rw [h]

theorem CommandSame.trans {s t u : State} (h : CommandSame s t) (h' : CommandSame t u) : CommandSame s u :=
  ⟨h'.level.trans h.level, h'.entry.trans h.entry, h'.width.trans h.width, h'.bypass.trans h.bypass,
    h'.table.trans h.table, h'.irqEn.trans h.irqEn⟩

theorem TableIs.congr {table : List Word} {s t : State} (h : TableIs table s) (hst : CommandSame s t) :
    TableIs table t := ⟨hst.irqEn.trans h.1, hst.table.trans h.2⟩

theorem CommandSame.keep {s t u : State} (h : CommandSame s t) (hu : u.pca = t.pca) : CommandSame s u :=
  h.trans (.of_pca hu)

theorem CommandSame.after {s s' t : State} (h : CommandSame s' t) (hs : s'.pca = s.pca) : CommandSame s t :=
  (CommandSame.of_pca hs).trans h

theorem readDue_command (s : State) : CommandSame s (readDue s) := by constructor <;> simp
theorem hostTurn_command (zc : Bool) (s : State) : CommandSame s (hostTurn zc s) := by constructor <;> simp
theorem countTimers_command (s : State) : CommandSame s (countTimers s) := ⟨rfl, rfl, rfl, rfl, rfl, rfl⟩

theorem counterA_command (zc : Bool) (s : State) : CommandSame s (counterA zc s) := by
  unfold counterA counterAEdge
  split_ifs <;> exact ⟨rfl, rfl, rfl, rfl, rfl, rfl⟩

theorem countersBC_command (s : State) : CommandSame s (countersBC s) := by
  unfold countersBC countC
  split_ifs <;> exact ⟨rfl, rfl, rfl, rfl, rfl, rfl⟩

theorem readTimer_command (due : Bool) (s : State) : CommandSame s (readTimer due s) := by
  unfold readTimer
  split <;> exact ⟨rfl, rfl, rfl, rfl, rfl, rfl⟩

/-- A tick does not command the actuator: Counter A, Counters B and C and the window's timer do not, and nothing else of
a tick touches the unit. -/
theorem tick_command (low zc consume : Bool) (s : State) : CommandSame s (tick low zc consume s) := by
  have turn := (hostTurn_command zc s).keep (captureUnit_pca (linePin low (hostTurn zc s)) _)
  have pins := turn.trans (counterA_command zc _)
  have timers (due due' : Bool) :=
    (pins.trans (countTimers_command _)).keep ((waitTimer_pca due _).trans (startTimer_pca due' _))
  have counters (due due' due'' : Bool) :=
    ((timers due due').trans (countersBC_command _)).trans (readTimer_command due'' _)
  exact (counters _ _ _).keep
    ((deadlineTimer_pca _ _ _).trans ((heldTimers_pca _).trans (lockTimer_pca _ _)))

/-- The actuator's instructions other than its two commands, and every other unit's, leave Dimmer Command State. -/
theorem exec_command {i : Instr} (hset : i ≠ .pcaSet) (hinit : i ≠ .pcaInit) (s : State) :
    IfNext (CommandSame s) (exec i s) := by
  by_cases hi : i.unit = .pca
  · cases i with
    | pcaSet => exact absurd rfl hset
    | pcaInit => exact absurd rfl hinit
    | pcaRead => exact ⟨rfl, rfl, rfl, rfl, rfl, rfl⟩
    | pcaIrqZc p q => exact (execPcaIrqZc_ifNext p q).mpr fun _ => ⟨rfl, rfl, rfl, rfl, rfl, rfl⟩
    | pcaBExpire => exact execPcaBExpire_ifNext.mpr fun _ => ⟨rfl, rfl, rfl, rfl, rfl, rfl⟩
    | pcaCReload => exact execPcaCReload_ifNext.mpr fun _ => ⟨rfl, rfl, rfl, rfl, rfl, rfl⟩
    | pcaReadExpire => exact execPcaReadExpire_ifNext.mpr fun _ _ => ⟨rfl, rfl, rfl, rfl, rfl, rfl⟩
    | _ => cases hi
  · exact (exec_pca_frame hi s).mono fun t ht => .of_pca ht.1

/-- PCA_SET does not write the table, and PCA_INIT is refused once initialised. -/
theorem TableIs.exec {table : List Word} {s : State} (h : TableIs table s) (i : Instr) :
    IfNext (TableIs table) (exec i s) := by
  cases i with
  | pcaSet => exact h.setLevel _
  | pcaInit => exact execPcaInit_ifNext.mpr fun hf => absurd (h.1.symm.trans hf) (by decide)
  | _ => exact (exec_command (by simp) (by simp) s).mono fun t => h.congr

theorem TableIs.loopStep {table : List Word} {s : State} (h : TableIs table s) :
    IfNext (TableIs table) (loopStep s) := by
  cases hst : s.run.stage with
  | set st out =>
    simp only [Machine.loopStep, hst, ifNext_andThen]
    exact h.setLevel _
  | _ =>
    refine (loopStep_pca_frame (s := s) (by simp [hst])).mono fun t ht => ?_
    exact h.congr (.of_pca ht.1)

theorem tableIs_stepInvariant (table : List Word) : StepInvariant (TableIs table) where
  ports _ _ _ _ _ h := h
  exec _ i h := h.exec i
  due s h := h.congr (readDue_command s)
  tick s low zc consume h := h.congr (tick_command low zc consume s)
  take _ _ _ h := h.congr (.of_pca (by simp))
  loop _ h := h.loopStep
  skip _ _ h := h
  held _ _ _ _ h := h
  settle _ h := h.congr (.of_pca (by simp))

/-- Settles O36. -/
theorem tableIsImmutable : Obligations.TableIsImmutable := by
  intro s t hi hstep
  have ht : TableIs s.pca.table t := ((tableIs_stepInvariant _).step ⟨hi, rfl⟩).of_eq hstep
  exact ⟨ht.2, ht.1⟩

/-- The parameters are constant (00_scope.md R6). -/
theorem conf_stepInvariant (c : Config) : StepInvariant (fun s => s.conf = c) where
  ports _ _ _ _ _ h := h
  exec s i h := (exec_conf i s).mono fun _ ht => ht.trans h
  due s h := (readDue_conf s).trans h
  tick s low zc consume h := (tick_conf low zc consume s).trans h
  take s _ _ h := (takeCompletion_conf s).trans h
  loop s h := (loopStep_conf s).mono fun _ ht => ht.trans h
  skip _ _ h := h
  held _ _ _ _ h := h
  settle s h := (settle_conf s).trans h

end Sys2Proof.Machine
end

section
/-!
SUPPORT. Every step keeps the LOOP task's one outstanding read, and its wait for the lock bounded (44_control_loop.md R211;
20_memory.md R74; 60_exceptions.md R242).
-/
namespace Sys2Proof.Machine

/-! ### The instructions -/

theorem LoopInv.cancelHeadHeld {s : State} (h : LoopInv s) {x : Held} {rest : List Held} (hx : s.run.held = x :: rest) :
    LoopInv (Machine.cancelHeld x rest s) := by
  refine h.cancelHeld x rest ?_
  rw [hx, List.countP_cons]
  simp

theorem LoopInv.tickIssued {s : State} (h : LoopInv s) : IfNext LoopInv (execLoopTick s) := by
  refine execLoopTick_ifNext.mpr fun hidle => ?_
  have hs : s.run.stage ≠ .waiting := by simp [hidle]
  exact ⟨fun _ => h.restage rfl rfl hs (by simp) (by simp), fun _ _ => h.restage rfl rfl hs (by simp) (by simp),
    fun _ _ => h.restage rfl rfl hs (by simp) (by simp)⟩

/-- Of the instructions SWD_READ, SWD_DEADLINE and LOOP_TICK touch what the LOOP task waits for. -/
theorem LoopInv.exec {s : State} (h : LoopInv s) (hi : SwdInv s) (i : Instr) : IfNext LoopInv (Machine.exec i s) := by
  have frame : i ≠ .swdRead → i ≠ .loopTick → i ≠ .swdDeadline → IfNext LoopInv (Machine.exec i s) := by
    intro hread htick hdead
    have hloop := ifNext_iff.mp (exec_loop_frame htick hdead s)
    have hswd := ifNext_iff.mp (exec_readers_frame hread hdead s)
    refine ifNext_iff.mpr fun t ht => ?_
    obtain ⟨hserved, hheld⟩ := hswd t ht
    obtain ⟨hstage, hlock⟩ := hloop t ht
    exact h.congr hserved hheld hstage hlock
  cases i with
  | swdRead => exact h.submit_host hi _ _
  | swdDeadline => exact execSwdDeadline_ifNext.mpr ⟨fun _ _ => h.cancelServed, fun _ _ _ hx => h.cancelHeadHeld hx⟩
  | loopTick => exact h.tickIssued
  | _ => exact frame (by simp) (by simp) (by simp)

/-! ### The tick -/

theorem countP_map_count (hs : List Held) :
    (hs.map Held.count).countP (fun h => h.caller == .loop) = hs.countP (fun h => h.caller == .loop) := by
  rw [List.countP_map]
  rfl

theorem LoopInv.countTimers {s : State} (h : LoopInv s) : LoopInv (countTimers s) where
  reads_eq := by
    have hreads : loopReads (Machine.countTimers s) = loopReads s :=
      congrArg (_ + ·) (countP_map_count s.run.held)
    exact hreads.trans h.reads_eq
  lock_timer hne := by
    refine h.lock_timer fun h0 => hne ?_
    simp [countLock, h0]

theorem LoopInv.lockTimer {s : State} (h : LoopInv s) (due : Bool) : LoopInv (lockTimer due s) := by
  unfold Machine.lockTimer
  split_ifs with hc hlock
  · exact h.restage rfl rfl (by simp [hc.2]) (by simp) (by simp)
  · exact h.restage rfl rfl (by simp [hc.2]) (by simp) (by simp)
  · exact h

theorem LoopInv.deadlineTimer {s : State} (h : LoopInv s) (due consume : Bool) :
    LoopInv (deadlineTimer due consume s) := by
  obtain ⟨heq, _⟩ | heq := deadlineTimer_cases due consume s
  · exact heq ▸ h.cancelServed
  · exact heq ▸ h.congr (by simp) (by simp) (by simp) (by simp)

theorem LoopInv.runSame {s t : State} (h : LoopInv s) (hr : t.run = s.run) : LoopInv t :=
  h.congr (by rw [hr]) (by rw [hr]) (by rw [hr]) (by rw [hr])

theorem LoopInv.readTimer {s : State} (h : LoopInv s) (due : Bool) : LoopInv (readTimer due s) :=
  h.congr (by simp) (by simp) (by simp) (by simp)

/-- In the order of the tick (R151): pins, timers and counters, deadlines and sequencer. -/
theorem LoopInv.tick {s : State} (h : LoopInv s) (low zc consume : Bool) : LoopInv (tick low zc consume s) := by
  have pins := ((h.hostTurn zc).runSame (captureUnit_run (linePin low (Machine.hostTurn zc s)) _)).runSame
    (counterA_run zc _)
  have timers (due due' : Bool) :=
    (pins.countTimers.runSame (startTimer_run due _)).runSame (waitTimer_run due' _)
  have counters (due due' : Bool) := (timers due due').runSame (countersBC_run _)
  exact (heldTimers_loopInv (((counters _ _).readTimer _).lockTimer _)).deadlineTimer _ _

/-! ### The LOOP task -/

/-- Its SWD_READ, accepted or held, is the one it then waits for. -/
theorem LoopInv.reads {s : State} (h : LoopInv s) (hi : SwdInv s) (hs : s.run.stage = .read) (tmo : Word) :
    IfNext LoopInv (submitRead .loop tmo false { s with run.stage := .waiting }) := by
  have h0 := h.reads_eq
  have hlock : ¬ s.run.tLock ≠ 0 := fun hne => by simpa [hs] using h.lock_timer hne
  simp only [loopReads, hs, reduceCtorEq, if_false] at h0
  refine (submitRead_ifNext _ _ _).mpr fun _ _ => ⟨fun _ => ⟨?_, fun hne => absurd hne hlock⟩, fun hb hd =>
    ⟨?_, fun hne => absurd hne hlock⟩⟩
  · obtain ⟨hserved, hheld⟩ := Nat.add_eq_zero_iff.mp h0
    simp only [loopReads, List.countP_append, hserved, hheld, if_true]
    rfl
  · simpa [loopReads, hi.free_served hb hd] using h0

/-- The host's completion is none of the LOOP task's. -/
theorem LoopInv.hostTakes {s : State} (h : LoopInv s) (hserved : s.run.served = some .host) :
    LoopInv (takeCompletion s) := by
  have h0 := h.reads_eq
  refine ⟨?_, fun hne => ?_⟩
  · simpa [loopReads, hserved] using h0
  · simpa using h.lock_timer (by simpa using hne)

/-- It takes its completion: it waits no more, and nothing of its own is outstanding. -/
theorem LoopInv.takes {s : State} (h : LoopInv s) (hs : s.run.stage = .waiting) (hserved : s.run.served = some .loop)
    (st : Byte) : LoopInv { takeCompletion s with run.stage := .record st } := by
  have h0 := h.reads_eq
  simp only [loopReads, hs, hserved, if_true] at h0
  refine ⟨?_, fun hne => ?_⟩
  · simpa [loopReads] using h0
  · exact absurd (h.lock_timer (by simpa using hne)) (by simp [hs])

theorem loopCompute_ifNext {P : State → Prop} {st : Byte} {s : State} :
    IfNext P (loopCompute st s) ↔
      (s.loop.cfg.manual = false ∧ s.loop.haveReading = true →
        IfNext (fun t => P { t with run.stage := .set st t.cmd.r0 })
          (pidStep (loopInput s) (loopSetpoint s) s.ext.now s)) ∧
      (¬ (s.loop.cfg.manual = false ∧ s.loop.haveReading = true) → P { s with run.stage := .finish st }) := by
  unfold loopCompute
  split
  · cases pidStep (loopInput s) (loopSetpoint s) s.ext.now s <;> simp [*]
  · simp [*]

theorem LoopInv.loopStep {s : State} (h : LoopInv s) (hi : SwdInv s) : IfNext LoopInv (loopStep s) := by
  have move : s.run.stage ≠ .waiting → s.run.stage ≠ .acquire → ∀ t : State, t.run.served = s.run.served →
      t.run.held = s.run.held → t.run.tLock = s.run.tLock → t.run.stage ≠ .waiting → LoopInv t :=
    fun hw ha t hserved hheld hlock hw' =>
      h.restage hserved hheld hw hw' fun hne => absurd (h.lock_timer (hlock ▸ hne)) ha
  cases hst : s.run.stage with
  | idle => simp [hst]
  | acquire => simpa [hst] using fun _ => h.restage (t := lockAcquired s) rfl rfl (by simp [hst]) (by simp) (by simp)
  | read => simpa [hst] using h.reads hi hst _
  | waiting => simpa [hst] using fun hserved _ => h.takes hst hserved _
  | compute st =>
    have move := move (by simp [hst]) (by simp [hst])
    simp only [Machine.loopStep, hst]
    refine loopCompute_ifNext.mpr ⟨fun _ => (pidStep_ifNext _ _ _).mpr ?_, fun _ => move _ rfl rfl rfl (by simp)⟩
    exact ⟨fun _ => move _ rfl rfl rfl (by simp), fun _ _ _ _ => move _ rfl rfl rfl (by simp)⟩
  | set st out =>
    have move := move (by simp [hst]) (by simp [hst])
    simp only [Machine.loopStep, hst, ifNext_andThen]
    exact (setLevel_ifNext _).mpr fun _ => ⟨fun _ => move _ rfl rfl rfl (by simp),
      fun _ _ => move _ rfl rfl rfl (by simp), fun _ _ => move _ rfl rfl rfl (by simp)⟩
  | snapshot | release | coef | limits | finish | record =>
    simp only [Machine.loopStep, hst, ifNext_next]
    exact move (by simp [hst]) (by simp [hst]) _ (by simp) (by simp) (by simp) (by simp)

/-! ### Every step -/

/-- The decoder's invariants go along: a free slot serves nobody. -/
theorem loopInv_stepInvariant : StepInvariant (fun s => SwdInv s ∧ LoopInv s) where
  ports _ _ _ _ _ h := ⟨h.1.congr rfl rfl rfl, h.2.congr rfl rfl rfl rfl⟩
  exec _ i h := (h.1.exec i).and (h.2.exec h.1 i)
  due _ h := ⟨h.1.readDue, h.2.readDue⟩
  tick _ low zc consume h := ⟨h.1.tick low zc consume, h.2.tick low zc consume⟩
  take _ hs hd h := ⟨h.1.take hd, h.2.hostTakes hs⟩
  loop _ h := h.1.loopStep.and (h.2.loopStep h.1)
  skip _ hs h := ⟨h.1.congr rfl rfl rfl, h.2.restage rfl rfl (by simp [hs]) (by simp) (by simp)⟩
  held _ _ _ hk h := ⟨h.1.congr rfl rfl rfl,
    h.2.cancelHeld _ _ (by simpa using countP_eraseIdx (p := fun h => h.caller == .loop) hk)⟩
  settle _ h := ⟨h.1.settle, h.2.settle h.1⟩

/-! ### The wait for the lock -/

theorem LockWaitBounded.move {s t : State} (h : LockWaitBounded s)
    (hst : t.run.stage = .acquire → s.run.stage = .acquire) (hl : t.run.tLock = s.run.tLock) : LockWaitBounded t :=
  fun ht => hl ▸ h (hst ht)

theorem deadlineStage_acquire {c : Caller} {st : LoopStage} (h : deadlineStage c st = .acquire) : st = .acquire := by
  cases c with
  | host => exact h
  | loop => cases h

theorem LockWaitBounded.cancelServed {s : State} (h : LockWaitBounded s) : LockWaitBounded (cancelServed s) :=
  h.move deadlineStage_acquire rfl

theorem LockWaitBounded.cancelHeld {s : State} (h : LockWaitBounded s) (x : Held) (rest : List Held) :
    LockWaitBounded (cancelHeld x rest s) :=
  h.move deadlineStage_acquire rfl

/-- LOOP_TICK enters the wait only with a bound above 0 (log 29). -/
theorem LockWaitBounded.exec {s : State} (h : LockWaitBounded s) (i : Instr) :
    IfNext LockWaitBounded (Machine.exec i s) := by
  have frame : i ≠ .loopTick → i ≠ .swdDeadline → IfNext LockWaitBounded (Machine.exec i s) := fun htick hdead =>
    (exec_loop_frame htick hdead s).mono fun _ ht => h.move (fun hst => ht.1 ▸ hst) ht.2
  cases i with
  | loopTick => exact execLoopTick_ifNext.mpr fun _ => ⟨fun _ => nofun, fun _ _ => nofun, fun _ hl _ => hl⟩
  | swdDeadline => exact execSwdDeadline_ifNext.mpr ⟨fun _ _ => h.cancelServed, fun _ _ _ _ => h.cancelHeld _ _⟩
  | _ => exact frame (by simp) (by simp)

/-- The tick on which the count reaches 0 ends the wait (20_memory.md R74). -/
theorem LockWaitBounded.lockTimer {s : State} {due : Bool} (h : due = false → LockWaitBounded s) :
    LockWaitBounded (lockTimer due s) := by
  cases due with
  | false => exact (lockTimer_false s).symm ▸ h rfl
  | true =>
    intro hst
    unfold Machine.lockTimer at hst
    split_ifs at hst with hc hlock
    · cases hst
    · cases hst
    · exact absurd ⟨rfl, hst⟩ hc

theorem countLock_ne_zero {fresh : Bool} {n : Nat} (hn : n ≠ 0) (hdue : lockExpiresNow fresh n = false) :
    countLock fresh n ≠ 0 := by
  cases fresh with
  | true => exact hn
  | false =>
    have h1 : n ≠ 1 := by simpa [lockExpiresNow] using hdue
    simp only [countLock, Bool.false_eq_true, if_false]
    omega

theorem LockWaitBounded.heldTimers {s : State} (h : LockWaitBounded s) : LockWaitBounded (heldTimers s) := by
  obtain ⟨_, hlock, _, _, hstage, _⟩ := foldl_cancelHeld_run (s.run.held.filter (fun h => h.left == 0))
    (s.run.held.filter (fun h => h.left != 0)) s
  refine h.move (fun hst => ?_) hlock
  have hst := hstage.symm.trans hst
  split at hst
  · cases hst
  · exact hst

theorem LockWaitBounded.deadlineTimer {s : State} (h : LockWaitBounded s) (due consume : Bool) :
    LockWaitBounded (deadlineTimer due consume s) := by
  obtain ⟨heq, _⟩ | heq := deadlineTimer_cases due consume s
  · exact heq ▸ h.cancelServed
  · exact heq ▸ h.move (by simp) (by simp)

theorem LockWaitBounded.tick {s : State} (h : LockWaitBounded s) (low zc consume : Bool) :
    LockWaitBounded (tick low zc consume s) := by
  refine LockWaitBounded.deadlineTimer (LockWaitBounded.heldTimers (LockWaitBounded.lockTimer fun hdue hst => ?_)) _ _
  simp at hst hdue ⊢
  exact countLock_ne_zero (h hst) hdue

/-- No operation of the LOOP task leaves it in the wait. -/
theorem loopStep_lockWaitBounded (s : State) : IfNext LockWaitBounded (loopStep s) := by
  have leave : ∀ t : State, t.run.stage ≠ .acquire → LockWaitBounded t := fun t ht hst => absurd hst ht
  cases hst : s.run.stage with
  | idle | acquire | waiting => simp [hst, LockWaitBounded]
  | read =>
    simp only [Machine.loopStep, hst]
    exact (submitRead_ifNext _ _ _).mpr fun _ _ => ⟨fun _ => leave _ (by simp), fun _ _ => leave _ (by simp)⟩
  | compute st =>
    simp only [Machine.loopStep, hst]
    refine loopCompute_ifNext.mpr ⟨fun _ => (pidStep_ifNext _ _ _).mpr ?_, fun _ => leave _ (by simp)⟩
    exact ⟨fun _ => leave _ (by simp), fun _ _ _ _ => leave _ (by simp)⟩
  | set st out =>
    simp only [Machine.loopStep, hst, ifNext_andThen]
    exact (setLevel_ifNext _).mpr fun _ =>
      ⟨fun _ => leave _ (by simp), fun _ _ => leave _ (by simp), fun _ _ => leave _ (by simp)⟩
  | snapshot | release | coef | limits | finish | record =>
    simp only [Machine.loopStep, hst, ifNext_next]
    exact leave _ (by simp)

theorem settle_stage (s : State) : (settle s).run.stage = s.run.stage := by
  unfold settle
  split <;> [skip; split] <;> simp
theorem settle_tLock (s : State) : (settle s).run.tLock = s.run.tLock := by
  unfold settle
  split <;> [skip; split] <;> simp

theorem lockWaitBounded_stepInvariant : StepInvariant LockWaitBounded where
  ports _ _ _ _ _ h := h
  exec _ i h := h.exec i
  due _ h := h.move (by simp) (by simp)
  tick _ low zc consume h := h.tick low zc consume
  take _ _ _ h := h.move (by simp) (by simp)
  loop s _ := loopStep_lockWaitBounded s
  skip _ _ _ hst := by cases hst
  held _ _ _ _ h := h.cancelHeld _ _
  settle s h := h.move (fun hst => settle_stage s ▸ hst) (settle_tLock s)

/-- Settles O59. -/
theorem stepKeepsTheLoopInvariant : Obligations.StepKeepsTheLoopInvariant := fun _ _ hi h hstep =>
  ⟨((loopInv_stepInvariant.step ⟨hi, h⟩).of_eq hstep).2,
    fun hb => (lockWaitBounded_stepInvariant.step hb).of_eq hstep⟩

/-! ### Reset -/

theorem resetWith_swdInv {c : Config} (hn : 0 < c.nBits) : SwdInv (State.resetWith c) where
  bits_pos := hn
  busy_iff := by simp [State.resetWith]
  irq_iff := by simp [State.resetWith, Waiting]
  drive_iff := by simp [State.resetWith]
  bit_le := Nat.zero_le _
  bit_lt := nofun
  buf_clear := nofun
  buf_zero _ := rfl
  done_free _ := rfl
  served_iff := by simp [State.resetWith]
  start_timer h := absurd rfl h
  wait_timer h := absurd rfl h
  rcv_timer h := absurd rfl h

theorem resetWith_pcaInv (c : Config) : PcaInv (State.resetWith c) where
  table_eq := nofun
  table_ok := nofun
  entry_le := Nat.zero_le _
  width_eq := .inl rfl
  bypass_width := nofun
  before_init _ := ⟨rfl, rfl, rfl, rfl⟩
  read_timer h := absurd rfl h

theorem resetWith_loopInv (c : Config) : LoopInv (State.resetWith c) where
  reads_eq := rfl
  lock_timer h := absurd rfl h

/-- Settles O56. -/
theorem resetMeetsTheInvariants : Obligations.ResetMeetsTheInvariants :=
  fun c => ⟨resetWith_swdInv, resetWith_pcaInv c, resetWith_loopInv c, nofun⟩

end Sys2Proof.Machine
end

section
/-!
SUPPORT. Fixed-point arithmetic (40_fixed_point.md R111 to R117): what the narrowed results are.
-/
namespace Sys2Proof.Machine

theorem wrap32_add (a b : Word) : wrap32 (a.toInt + b.toInt) = a + b := by
  simp [wrap32, BitVec.ofInt_add]

theorem wrap32_sub (a b : Word) : wrap32 (a.toInt - b.toInt) = a - b := by
  simp [wrap32, Int.sub_eq_add_neg, BitVec.ofInt_add, BitVec.ofInt_neg, BitVec.sub_eq_add_neg]

/-- Settles O6. -/
theorem addAndSubtractWrap : Obligations.AddAndSubtractWrap := by
  intro s
  rw [← wrap32_add, ← wrap32_sub]
  exact ⟨rfl, rfl⟩

/-- Settles O7: the quotient is the product shifted by `>>a`, which rounds toward minus infinity. -/
theorem multiplyScalesTowardMinusInfinity : Obligations.MultiplyScalesTowardMinusInfinity := fun s =>
  ⟨wrap32 (fxMulWide s.conf.fxFrac s.cmd.a0.toInt s.cmd.a1.toInt), fxMulWide s.conf.fxFrac s.cmd.a0.toInt s.cmd.a1.toInt,
    rfl, asr_le _ _, lt_asr _ _, wrap32_dvd _, wrap32_fits⟩

theorem exec_fxDiv_nonzero {s : State} (h : opA1 s ≠ 0) :
    exec .fxDiv s = .next (putResult (wrap32 (fxDivWide s.conf.fxFrac (opA0 s) (opA1 s))) s) := if_neg h

theorem exec_fxDiv_zero {s : State} (h : opA1 s = 0) : exec .fxDiv s = .next (putStatus statusFxDivZero s) := if_pos h

theorem toInt_ne_zero {w : Word} (h : w ≠ 0) : w.toInt ≠ 0 := fun h0 => h (BitVec.eq_of_toInt_eq h0)

/-- The remainder of a dividend scaled up has the sign of the dividend itself. -/
theorem tmod_shl_sign (a b : Int) (f : Nat) : 0 ≤ Int.tmod (a * 2 ^ f) b * a := by
  have h : 0 ≤ Int.tmod (a * 2 ^ f) b * a * 2 ^ f := by
    rw [mul_assoc]
    exact tmod_sign _ _
  exact nonneg_of_mul_nonneg_left h (by positivity)

/-- Settles O8: quotient and remainder of truncated division; a zero divisor takes the first branch of the rule. -/
theorem divideRoundsTowardZero : Obligations.DivideRoundsTowardZero := by
  refine fun s => ⟨fun hne => ?_, fun h0 => ?_⟩
  · have hb : s.cmd.a1.toInt ≠ 0 := toInt_ne_zero hne
    refine ⟨wrap32 (fxDivWide s.conf.fxFrac s.cmd.a0.toInt s.cmd.a1.toInt),
      fxDivWide s.conf.fxFrac s.cmd.a0.toInt s.cmd.a1.toInt,
      Int.tmod (s.cmd.a0.toInt * 2 ^ s.conf.fxFrac) s.cmd.a1.toInt, exec_fxDiv_nonzero hb, ?_, tmod_abs_lt _ hb,
      tmod_shl_sign _ _ _, wrap32_dvd _, wrap32_fits⟩
    rw [fxDivWide_eq, Int.mul_comm _ s.cmd.a1.toInt]
    exact (Int.mul_tdiv_add_tmod _ _).symm
  · exact exec_fxDiv_zero (by simp [opA1, h0])

/-- A word shifted right arithmetically is no larger in magnitude, so it fits a word. -/
theorem asr_fits32 (w : Word) (f : Nat) : fits32 (asr w.toInt f) = true := by
  have hpow : (1 : Int) ≤ 2 ^ f := one_le_pow₀ (by norm_num)
  have hlt : w.toInt < 2147483648 := w.toInt_lt
  have hle : -2147483648 ≤ w.toInt := w.le_toInt
  rw [asr_eq, fits32, decide_eq_true_eq]
  constructor
  · exact Int.le_ediv_of_mul_le (by omega) (by nlinarith)
  · exact Int.ediv_lt_of_lt_mul (by omega) (by nlinarith)

/-- Settles O9. -/
theorem integerConversions : Obligations.IntegerConversions := by
  intro s
  have hfits : (wrap32 (asr s.cmd.a0.toInt s.conf.fxFrac)).toInt = asr s.cmd.a0.toInt s.conf.fxFrac :=
    wrap32_fits (asr_fits32 _ _)
  have hshl : s.cmd.a0.toInt * 2 ^ s.conf.fxFrac = fxFromIntExact s.conf.fxFrac s.cmd.a0.toInt := by
    simp [fxFromIntExact, shl]
  refine ⟨⟨_, rfl, hshl ▸ wrap32_dvd _⟩, wrap32 (asr s.cmd.a0.toInt s.conf.fxFrac), rfl, ?_⟩
  rw [hfits]
  exact ⟨asr_le _ _, lt_asr _ _⟩

/-- A word clamped between two words is one of the three. -/
theorem wrap32_clamp (v lo hi : Word) :
    wrap32 (clamp v.toInt lo.toInt hi.toInt) = if v.slt lo then lo else if hi.slt v then hi else v := by
  simp only [clamp, gt_iff_lt, ← BitVec.slt_iff_toInt_lt]
  split_ifs <;> exact wrap32_toInt _

/-- Settles O10. -/
theorem clampIsSignedAndNotReordered : Obligations.ClampIsSignedAndNotReordered := by
  refine ⟨decode_encode .fxClamp, fun s => ?_⟩
  rw [← wrap32_clamp]
  rfl

end Sys2Proof.Machine
end

section
/-!
SUPPORT. The decimal strings of FX_PARSE and FX_FORMAT (40_fixed_point.md R118, R119).
-/
namespace Sys2Proof.Machine

/-! ### FX_PARSE -/

/-- The sign R118 allows before the digits. -/
def SignString (neg : Bool) (sign : List Char) : Prop := if neg then sign = ['-'] else sign = [] ∨ sign = ['+']

theorem splitSign_spec (cs : List Char) :
    ∃ sign, SignString (splitSign cs).1 sign ∧ cs = sign ++ (splitSign cs).2 := by
  cases cs with
  | nil => exact ⟨[], .inl rfl, rfl⟩
  | cons c cs =>
    simp only [splitSign]
    split_ifs with hminus hplus
    · exact ⟨['-'], rfl, by simp [hminus]⟩
    · exact ⟨['+'], .inr rfl, by simp [hplus]⟩
    · exact ⟨[], .inl rfl, rfl⟩

theorem splitSign_append {neg : Bool} {sign : List Char} (hs : SignString neg sign) {d : Nat} (hd : d < 10)
    (r : List Char) : splitSign (sign ++ digitChar d :: r) = (neg, digitChar d :: r) := by
  obtain ⟨_, hminus, hplus⟩ := digitChar_ne hd
  cases neg with
  | true =>
    obtain rfl : sign = ['-'] := hs
    rfl
  | false =>
    obtain rfl | rfl : sign = [] ∨ sign = ['+'] := hs
    · simp [splitSign, hminus, hplus]
    · simp [splitSign]

/-- The cut at the point undoes R118's two forms of the fraction. -/
theorem splitPoint_frac {fp : List Nat} {frac : List Char}
    (hfrac : frac = '.' :: fp.map digitChar ∨ (fp = [] ∧ frac = [])) :
    (splitPoint frac).1 = [] ∧ (splitPoint frac).2.getD [] = fp.map digitChar := by
  obtain rfl | ⟨rfl, rfl⟩ := hfrac
  · simp [splitPoint]
  · simp [splitPoint]

theorem parseExact_of_decimalString {neg : Bool} {ip fp : List Nat} {cs : List Char} (f : Nat)
    (h : DecimalString neg ip fp cs) :
    parseExact f cs =
      some (if neg then -(parseMagnitude f ip fp : Int) else (parseMagnitude f ip fp : Int)) := by
  obtain ⟨hip, hipd, hfpd, sign, frac, hsign, hfrac, rfl⟩ := h
  obtain ⟨hnil, hfp⟩ := splitPoint_frac hfrac
  cases ip with
  | nil => exact absurd rfl hip
  | cons d ip =>
    have hsgn : splitSign (sign ++ (d :: ip).map digitChar ++ frac) = (neg, (d :: ip).map digitChar ++ frac) := by
      simpa using splitSign_append hsign (hipd d (by simp)) (ip.map digitChar ++ frac)
    simp only [parseExact, hsgn, splitPoint_digits hipd, hnil, hfp, List.append_nil, digitsOf_map hipd,
      digitsOf_map hfpd]

theorem decimalString_of_parseExact {f : Nat} {cs : List Char} {v : Int} (h : parseExact f cs = some v) :
    ∃ neg ip fp, DecimalString neg ip fp cs := by
  obtain ⟨sign, hsign, hcs⟩ := splitSign_spec cs
  unfold parseExact at h
  dsimp only at h
  split at h
  · rename_i d ip fp hip hfp
    obtain ⟨hipd, hipc⟩ := digitsOf_some hip
    obtain ⟨hfpd, hfpc⟩ := digitsOf_some hfp
    refine ⟨(splitSign cs).1, d :: ip, fp, by simp, hipd, hfpd, sign, ?_⟩
    cases hcut : splitPoint (splitSign cs).2 with
    | mk before after =>
      rw [hcut] at hipc hfpc
      cases after with
      | none =>
        refine ⟨[], hsign, .inr ⟨?_, rfl⟩, ?_⟩
        · simpa using hfpc.symm
        · rw [← hipc, List.append_nil, ← splitPoint_none hcut]
          exact hcs
      | some frac =>
        refine ⟨'.' :: frac, hsign, .inl (by rw [← hfpc]; rfl), ?_⟩
        rw [← hipc, List.append_assoc, ← splitPoint_some hcut]
        exact hcs
  · cases h

theorem exec_fxParse_some {s : State} {v : Int} (h : parseExact s.conf.fxFrac s.cmd.str = some v) :
    exec .fxParse s = .next (putResult (wrap32 v) s) := by
  simp only [exec, execFxParse, h]

theorem exec_fxParse_none {s : State} (h : parseExact s.conf.fxFrac s.cmd.str = none) :
    exec .fxParse s = .next (putStatus statusFxParseError s) := by
  simp only [exec, execFxParse, h]

/-- Settles O11: `parseExact` answers on the strings of the grammar and on no other. -/
theorem parseFollowsTheGrammar : Obligations.ParseFollowsTheGrammar := by
  refine fun s => ⟨fun neg ip fp h => ⟨_, rfl, ?_⟩, fun hout => ?_⟩
  · exact exec_fxParse_some (parseExact_of_decimalString s.conf.fxFrac h)
  · refine exec_fxParse_none (Option.eq_none_iff_forall_not_mem.mpr fun v hv => ?_)
    obtain ⟨neg, ip, fp, hd⟩ := decimalString_of_parseExact hv
    exact hout neg ip fp hd

/-! ### FX_FORMAT -/

/-- `scaled` is the magnitude rounded half up: within half a unit, the upper half open. -/
theorem formatScaled_bounds {f : Nat} (hf : 1 ≤ f) (d : Nat) (a : Int) :
    2 * (formatScaled f d a * 2 ^ f) ≤ 2 * (a.natAbs * 10 ^ d) + 2 ^ f ∧
      2 * (a.natAbs * 10 ^ d) < 2 * (formatScaled f d a * 2 ^ f) + 2 ^ f := by
  have hpow : 2 ^ f = 2 * 2 ^ (f - 1) := by rw [← pow_succ', Nat.sub_add_cancel hf]
  have hpos : 0 < 2 ^ f := by positivity
  have hle : formatScaled f d a * 2 ^ f ≤ a.natAbs * 10 ^ d + 2 ^ (f - 1) := Nat.div_mul_le_self _ _
  have hlt : a.natAbs * 10 ^ d + 2 ^ (f - 1) < formatScaled f d a * 2 ^ f + 2 ^ f := Nat.lt_div_mul_add hpos
  omega

/-- Settles O12: the two printers print the quotient and the remainder of `scaled` by 10^D. -/
theorem formatRoundsHalfUp : Obligations.FormatRoundsHalfUp := by
  intro s hf
  obtain ⟨hle, hlt⟩ := formatScaled_bounds hf s.conf.fxFmtDigits s.cmd.a0.toInt
  obtain ⟨ip, hip, hne, hipd, hipv, hlead⟩ := decimalAux_spec _
    (formatScaled s.conf.fxFrac s.conf.fxFmtDigits s.cmd.a0.toInt / 10 ^ s.conf.fxFmtDigits) [] (Nat.lt_succ_self _)
  obtain ⟨fp, hfp, hlen, hfpd, hfpv⟩ := paddedDigits_spec s.conf.fxFmtDigits
    (formatScaled s.conf.fxFrac s.conf.fxFmtDigits s.cmd.a0.toInt % 10 ^ s.conf.fxFmtDigits) []
  refine ⟨_, _, ip, fp, formatScaled s.conf.fxFrac s.conf.fxFmtDigits s.cmd.a0.toInt, rfl, ?_, hne, hipd, hlead, hlen,
    hfpd, ?_, hle, hlt, rfl⟩
  · rw [List.append_nil] at hip hfp
    rw [← hip, ← hfp]
    rfl
  · rw [hipv, hfpv, Nat.mod_mod]
    exact (Nat.div_add_mod' _ _).symm

end Sys2Proof.Machine
end

section
/-!
SUPPORT. SWD_READ and the start pulse (41_sensor_decoder.md R133 to R135): accepted, held, refused.
-/
namespace Sys2Proof.Machine

theorem submitRead_notPositive {c : Caller} {tmo : Word} {fresh : Bool} {s : State} (h : tmo.toInt ≤ 0) :
    submitRead c tmo fresh s = .refused .timeoutNotPositive := if_pos h

theorem submitRead_ownCompletion {c : Caller} {tmo : Word} {fresh : Bool} {s : State} (h : 0 < tmo.toInt)
    (hd : s.cli.done = true) (hs : s.run.served ≠ some c.other) :
    submitRead c tmo fresh s = .refused .completionNotFresh := by
  rw [submitRead, if_neg (Int.not_le.mpr h), if_pos ⟨hd, hs⟩]

theorem submitRead_held {c : Caller} {tmo : Word} {fresh : Bool} {s : State} (h : 0 < tmo.toInt)
    (hb : s.swd.busy = true ∧ s.cli.done = false ∨ s.cli.done = true ∧ s.run.served = some c.other) :
    submitRead c tmo fresh s = .next { s with run.held := s.run.held ++ [⟨c, tmo, fresh⟩] } := by
  obtain ⟨hbusy, hd⟩ | ⟨hd, hs⟩ := hb
  · rw [submitRead, if_neg (Int.not_le.mpr h), if_neg (by simp [hd]), if_pos (.inl hbusy)]
  · rw [submitRead, if_neg (Int.not_le.mpr h), if_neg (by simp [hs]), if_pos (.inr hd)]

theorem submitRead_accepted {c : Caller} {tmo : Word} {fresh : Bool} {s : State} (h : 0 < tmo.toInt)
    (hb : s.swd.busy = false) (hd : s.cli.done = false) :
    submitRead c tmo fresh s =
      .next { acceptRead c tmo s with run.freshStart := fresh, run.freshRcv := fresh } := by
  rw [submitRead, if_neg (Int.not_le.mpr h), if_neg (by simp [hd]), if_neg (by simp [hb, hd])]

/-- Settles O13. -/
theorem readIsAcceptedWhenFree : Obligations.ReadIsAcceptedWhenFree := fun _ =>
  ⟨submitRead_accepted, submitRead_notPositive, fun h hd hs => submitRead_ownCompletion h hd hs⟩

/-- One held read and a free slot: there is no choice to make. -/
theorem settle_one {s : State} {h : Held} (hb : s.swd.busy = false) (hd : s.cli.done = false)
    (hh : s.run.held = [h]) : settle s = acceptHeld h [] s := by
  rw [settle, if_neg (by simp [hb, hd]), hh]

/-- Settles O14. -/
theorem busyReadIsHeldThenAccepted : Obligations.BusyReadIsHeldThenAccepted :=
  ⟨fun _ h hb => submitRead_held h hb, fun _ _ hb hd hh => settle_one hb hd hh⟩

/-- Settles O15. -/
theorem startDoneArmsCapture : Obligations.StartDoneArmsCapture := fun _ => ⟨fun hp => if_pos hp, fun hp => if_neg hp⟩

end Sys2Proof.Machine
end

section
/-!
SUPPORT. Classification of a sample (30_encoding.md R83 to R85), in the words of the statements: `InTolerance`.
-/
namespace Sys2Proof.Machine

theorem inWindow_iff_inTolerance (x : Int) (v : Nat) : inWindow x v = true ↔ InTolerance x v := inWindow_iff x v

variable {c : Config} {w : Word}

theorem classifyStart_timeout (h : samplePeriod w = 0) : classifyStart c w = .timeout := if_pos h

theorem classifyBit_timeout (h : samplePeriod w = 0) : classifyBit c w = .timeout := if_pos h

theorem classifyStart_start (h : samplePeriod w ≠ 0) (hlow : InTolerance (sampleLow w) c.vStartLow)
    (hhigh : InTolerance (sampleHigh w) c.vStartHigh) : classifyStart c w = .start := by
  rw [← inWindow_iff_inTolerance] at hlow hhigh
  rw [classifyStart, if_neg h, hlow, hhigh]
  rfl

theorem classifyStart_invalid (h : samplePeriod w ≠ 0)
    (hout : ¬ (InTolerance (sampleLow w) c.vStartLow ∧ InTolerance (sampleHigh w) c.vStartHigh)) :
    classifyStart c w = .invalid := by
  simp only [← inWindow_iff_inTolerance, ← Bool.and_eq_true] at hout
  rw [classifyStart, if_neg h, if_neg hout]

theorem classifyBit_bit1 (h : samplePeriod w ≠ 0) (hlow : InTolerance (sampleLow w) c.vBitLow)
    (hone : InTolerance (sampleHigh w) c.vOneHigh) : classifyBit c w = .bit1 := by
  rw [← inWindow_iff_inTolerance] at hlow hone
  rw [classifyBit, if_neg h, hlow, hone]
  rfl

theorem classifyBit_bit0 (h : samplePeriod w ≠ 0) (hlow : InTolerance (sampleLow w) c.vBitLow)
    (hzero : InTolerance (sampleHigh w) c.vZeroHigh) (hone : ¬ InTolerance (sampleHigh w) c.vOneHigh) :
    classifyBit c w = .bit0 := by
  rw [← inWindow_iff_inTolerance] at hlow hzero hone
  rw [classifyBit, if_neg h, hlow, hzero, Bool.eq_false_iff.mpr hone]
  rfl

theorem classifyBit_invalid (h : samplePeriod w ≠ 0)
    (hout : ¬ (InTolerance (sampleLow w) c.vBitLow ∧
      (InTolerance (sampleHigh w) c.vOneHigh ∨ InTolerance (sampleHigh w) c.vZeroHigh))) :
    classifyBit c w = .invalid := by
  simp only [← inWindow_iff_inTolerance, not_and, not_or] at hout
  rw [classifyBit, if_neg h, if_neg, if_neg]
  · exact fun hw => (hout (Bool.and_eq_true _ _ ▸ hw).1).2 (Bool.and_eq_true _ _ ▸ hw).2
  · exact fun hw => (hout (Bool.and_eq_true _ _ ▸ hw).1).1 (Bool.and_eq_true _ _ ▸ hw).2

/-- Settles O24: the windows of the nominal timings are 25 to 75, 14 to 40 and 35 to 105, and the 1 test comes first. -/
theorem bitIsReadFromTheHighPhase : Obligations.BitIsReadFromTheHighPhase := by
  intro c w high hlow hzero hone hp h25 h75 hhigh
  have hl : InTolerance (sampleLow w) c.vBitLow := by
    simp only [InTolerance, hlow, sampleLow]
    omega
  have h0 : InTolerance (sampleHigh w) c.vZeroHigh ↔ 14 ≤ high ∧ high ≤ 40 := by
    simp only [InTolerance, hzero, sampleHigh, ← hhigh]
    omega
  have h1 : InTolerance (sampleHigh w) c.vOneHigh ↔ 35 ≤ high ∧ high ≤ 105 := by
    simp only [InTolerance, hone, sampleHigh, ← hhigh]
    omega
  split_ifs with hin0 hin1
  · exact classifyBit_bit0 hp hl (h0.mpr (by omega)) (fun h => by have := h1.mp h; omega)
  · exact classifyBit_bit1 hp hl (h1.mpr hin1)
  · exact classifyBit_invalid hp (by rw [h0, h1]; omega)

end Sys2Proof.Machine
end

section
/-!
SUPPORT. The sequencer (41_sensor_decoder.md R136, R137, R140): what a captured sample makes it do.
-/
namespace Sys2Proof.Machine

theorem exec_swdConsume_ready {s : State} (hw : Waiting s) (hs : s.swd.sig = true) :
    exec .swdConsume s = .next (consumeSample s) := if_pos ⟨hw, hs⟩

theorem exec_swdConsume_noSignal {s : State} (hs : s.swd.sig = false) :
    exec .swdConsume s = .refused .nothingToConsume := if_neg (by simp [hs])

theorem consumeSample_of_symbol {s : State} {sym : Symbol} (hc : currentSymbol s = sym) :
    consumeSample s = symbolEffect sym { s with swd.sig := false } := by
  rw [consumeSample, hc]

theorem runSymbol_ready {s : State} {sym : Symbol} (hw : Waiting s) (hs : s.swd.sig = true)
    (hc : currentSymbol s = sym) : runSymbol sym s = .next (consumeSample s) := by
  rw [runSymbol, if_pos ⟨⟨hw, hs⟩, hc⟩, consumeSample_of_symbol hc]

/-- The symbol instruction of a symbol. -/
def instrOf : Symbol → Instr
  | .invalid => .symInvalid
  | .start => .symStart
  | .bit0 => .symBit0
  | .bit1 => .symBit1
  | .timeout => .symTimeout

theorem symbolOf_instrOf (sym : Symbol) : symbolOf (instrOf sym) = some sym := by cases sym <;> rfl

theorem exec_instrOf (sym : Symbol) (s : State) : exec (instrOf sym) s = runSymbol sym s := by cases sym <;> rfl

/-- SWD_CONSUME and the symbol's own instruction do the same. -/
theorem exec_symbol {s : State} {sym : Symbol} (hw : Waiting s) (hs : s.swd.sig = true) (hc : currentSymbol s = sym) :
    exec .swdConsume s = .next (symbolEffect sym { s with swd.sig := false }) ∧
      exec (instrOf sym) s = exec .swdConsume s := by
  rw [exec_instrOf, runSymbol_ready hw hs hc, exec_swdConsume_ready hw hs, consumeSample_of_symbol hc]
  exact ⟨rfl, rfl⟩

/-- Settles O5. -/
theorem consumeRunsTheSymbol : Obligations.ConsumeRunsTheSymbol := fun s hw hs =>
  ⟨instrOf (currentSymbol s), symbolOf_instrOf _, (exec_symbol hw hs rfl).2.symm⟩

theorem currentSymbol_waitStart {s : State} (h : s.swd.phase = .waitStart) :
    currentSymbol s = classifyStart s.conf s.swd.sample := if_pos h

theorem currentSymbol_waitBit {s : State} (h : s.swd.phase = .waitBit) :
    currentSymbol s = classifyBit s.conf s.swd.sample := if_neg (by simp [h])

theorem currentSymbol_timeout {s : State} (h : samplePeriod s.swd.sample = 0) : currentSymbol s = .timeout := by
  unfold currentSymbol
  split
  · exact classifyStart_timeout h
  · exact classifyBit_timeout h

/-- Settles O19. -/
theorem zeroPeriodEndsWithTimeout : Obligations.ZeroPeriodEndsWithTimeout := by
  intro s hw hs h0
  obtain ⟨hconsume, hsym⟩ := exec_symbol hw hs (currentSymbol_timeout h0)
  exact ⟨hconsume, hsym.trans hconsume⟩

/-- Settles O20. -/
theorem noiseEndsWithDecodeError : Obligations.NoiseEndsWithDecodeError := by
  intro s low high hs hp hlow hhigh hout
  subst hlow hhigh
  have key : Waiting s ∧ currentSymbol s = .invalid := by
    obtain ⟨hphase, hout⟩ | ⟨hphase, hout⟩ := hout
    · exact ⟨.inl hphase, (currentSymbol_waitStart hphase).trans (classifyStart_invalid hp hout)⟩
    · exact ⟨.inr hphase, (currentSymbol_waitBit hphase).trans (classifyBit_invalid hp hout)⟩
  obtain ⟨hconsume, hsym⟩ := exec_symbol key.1 hs key.2
  exact ⟨hconsume, hsym.trans hconsume⟩

/-- Settles O21. -/
theorem startSampleBeginsTheBits : Obligations.StartSampleBeginsTheBits := by
  intro s low high hphase hs hp hlow hhigh hinlow hinhigh
  subst hlow hhigh
  exact exec_symbol (.inl hphase) hs ((currentSymbol_waitStart hphase).trans (classifyStart_start hp hinlow hinhigh))

/-- The symbol of a data bit. -/
def bitSymbol (b : Bool) : Symbol := if b then .bit1 else .bit0

theorem symbolEffect_bitSymbol (b : Bool) (s : State) : symbolEffect (bitSymbol b) s = takeBit b s := by
  cases b <;> rfl

theorem instrOf_bitSymbol (b : Bool) : instrOf (bitSymbol b) = if b then .symBit1 else .symBit0 := by cases b <;> rfl

theorem takeBit_more {b : Bool} {s : State} (h : s.swd.bit + 1 ≠ s.conf.nBits) :
    takeBit b s = { s with
      swd.buf := storeBit s.swd.buf s.swd.bit b, swd.bit := s.swd.bit + 1, swd.tWait := s.conf.tWait } := by
  rw [takeBit, if_neg h]

/-- The code an exchange ends with after its last bit (R136). -/
def checksumCode (buf : Packet) : Byte := if checksumOk buf then statusOk else statusChecksumError

theorem checksumCode_eq (buf : Packet) :
    checksumCode buf = if buf[4] = buf[0] + buf[1] + buf[2] + buf[3] then 0 else 4 := by
  unfold checksumCode
  simp only [checksumOk_iff]
  rfl

theorem takeBit_last {b : Bool} {s : State} (h : s.swd.bit + 1 = s.conf.nBits) :
    takeBit b s = swdFinish (checksumCode (storeBit s.swd.buf s.swd.bit b))
      { s with swd.buf := storeBit s.swd.buf s.swd.bit b, swd.bit := s.swd.bit + 1 } := by
  rw [takeBit, if_pos h]
  rfl

/-- A data sample of bit `b`, in the terms of the statements. -/
theorem currentSymbol_bit {s : State} {b : Bool} (hphase : s.swd.phase = .waitBit) (hp : samplePeriod s.swd.sample ≠ 0)
    (hlow : InTolerance (sampleLow s.swd.sample) s.conf.vBitLow)
    (hb : b = true ∧ InTolerance (sampleHigh s.swd.sample) s.conf.vOneHigh ∨
      b = false ∧ InTolerance (sampleHigh s.swd.sample) s.conf.vZeroHigh ∧
        ¬ InTolerance (sampleHigh s.swd.sample) s.conf.vOneHigh) : currentSymbol s = bitSymbol b := by
  rw [currentSymbol_waitBit hphase]
  obtain ⟨rfl, hone⟩ | ⟨rfl, hzero, hone⟩ := hb
  · exact classifyBit_bit1 hp hlow hone
  · exact classifyBit_bit0 hp hlow hzero hone

/-- Settles O22. -/
theorem dataSampleStoresOneBit : Obligations.DataSampleStoresOneBit := by
  intro s low high b hphase hs hp hmore hlow hhigh hinlow hb
  subst hlow hhigh
  obtain ⟨hconsume, hsym⟩ := exec_symbol (.inr hphase) hs (currentSymbol_bit hphase hp hinlow hb)
  refine ⟨storeBit s.swd.buf s.swd.bit b, ?_, ?_, fun i hi => packetBit_storeBit _ _ hi⟩
  · rw [hconsume, symbolEffect_bitSymbol]
    exact congrArg _ (takeBit_more hmore.ne)
  · rw [← instrOf_bitSymbol, hsym]

/-- Settles O23. -/
theorem lastBitTestsTheChecksum : Obligations.LastBitTestsTheChecksum := by
  intro s low high b hphase hs hp hlast hlow hhigh hinlow hb
  subst hlow hhigh
  obtain ⟨hconsume, hsym⟩ := exec_symbol (.inr hphase) hs (currentSymbol_bit hphase hp hinlow hb)
  refine ⟨storeBit s.swd.buf s.swd.bit b, _, ?_, ?_, fun i hi => packetBit_storeBit _ _ hi, checksumCode_eq _⟩
  · rw [hconsume, symbolEffect_bitSymbol, ← hlast]
    exact congrArg _ (takeBit_last hlast)
  · rw [← instrOf_bitSymbol, hsym]

theorem exec_swdWaitExpire_expired {s : State} (hw : Waiting s) (hs : s.swd.sig = false) :
    exec .swdWaitExpire s = .next (swdFinish statusIrqTimeout s) := if_pos ⟨hw, hs⟩

/-- Settles O25. -/
theorem waitExpiryEndsWithIrqTimeout : Obligations.WaitExpiryEndsWithIrqTimeout := fun _ hw =>
  ⟨exec_swdWaitExpire_expired hw, fun hs => if_neg (by simp [hs])⟩

/-! ### Deadlines (R134, R141) -/

theorem deadlineStage_eq (c : Caller) (st : LoopStage) :
    deadlineStage c st = if c = .loop then .record 5 else st := by cases c <;> rfl

theorem exec_swdDeadline_served {s : State} (hb : s.swd.busy = true) (hd : s.cli.done = false) :
    exec .swdDeadline s = .next (cancelServed s) := if_pos ⟨hb, hd⟩

theorem exec_swdDeadline_held {s : State} {h : Held} {hs : List Held}
    (hn : ¬ (s.swd.busy = true ∧ s.cli.done = false)) (hh : s.run.held = h :: hs) :
    exec .swdDeadline s = .next (cancelHeld h hs s) := by
  change execSwdDeadline s = _
  rw [execSwdDeadline, if_neg hn, hh]

theorem exec_swdDeadline_none {s : State} (hn : ¬ (s.swd.busy = true ∧ s.cli.done = false)) (hh : s.run.held = []) :
    exec .swdDeadline s = .refused .noReadOutstanding := by
  change execSwdDeadline s = _
  rw [execSwdDeadline, if_neg hn, hh]

theorem heldDeadline_some {s : State} {k : Nat} {h : Held} (hk : s.run.held[k]? = some h) :
    heldDeadline k s = .next (cancelHeld h (s.run.held.eraseIdx k) s) := by
  rw [heldDeadline, hk]

/-- Settles O26. -/
theorem deadlineCancelsOrOnlyReports : Obligations.DeadlineCancelsOrOnlyReports := by
  refine ⟨fun s c hb hd hs => ?_, fun s k h hk => ?_, fun s hn => ⟨fun h hs hh => ?_, exec_swdDeadline_none hn⟩⟩
  · rw [exec_swdDeadline_served hb hd, cancelServed, hs, Option.getD_some, deadlineStage_eq]
    rfl
  · rw [← deadlineStage_eq]
    exact heldDeadline_some hk
  · rw [← deadlineStage_eq]
    exact exec_swdDeadline_held hn hh

/-! ### The tie of completion and deadline (R151, D40) -/

/-- An exchange that has been completed stays completed. -/
theorem consumeSample_done {s : State} (h : s.cli.done = true) : (consumeSample s).cli.done = true := by
  unfold consumeSample
  cases currentSymbol s with
  | invalid | timeout => rfl
  | start => exact h
  | bit0 | bit1 =>
    simp only [symbolEffect, takeBit]
    split
    · rfl
    · exact h

/-- Settles O54. -/
theorem completionBeatsTheDeadline : Obligations.CompletionBeatsTheDeadline := by
  intro s t hbusy hw hs hconsume
  rw [exec_swdConsume_ready hw hs] at hconsume
  cases hconsume
  have hturn : sequencerTurn true s = consumeSample s := if_pos ⟨rfl, hw, hs⟩
  refine ⟨fun hd => ?_, fun hd => ?_⟩
  · rw [deadlineTimer, hturn, if_neg (by simp [hd])]
  · have hcancel : deadlineTimer true true s = cancelServed s := by
      rw [deadlineTimer, hturn, if_pos ⟨rfl, hbusy, hd⟩]
    have hd' : s.cli.done = false := by
      by_contra hne
      exact absurd (consumeSample_done (by simpa using hne)) (by simp [hd])
    rw [hcancel]
    exact ⟨exec_swdDeadline_served hbusy hd', rfl, rfl⟩

end Sys2Proof.Machine
end

section
/-!
SUPPORT. The readings of a packet and their return to the caller (41_sensor_decoder.md R142, R143; 30_encoding.md R87).
-/
namespace Sys2Proof.Machine

theorem toNat_append_bytes (a b : Byte) : (a ++ b).toNat = a.toNat * 256 + b.toNat := by
  rw [BitVec.toNat_append, ← Nat.shiftLeft_add_eq_or_of_lt b.isLt, Nat.shiftLeft_eq]

theorem humidityOf_eq (buf : Packet) : humidityOf buf = buf[0] ++ buf[1] := by
  have h : humidityOf buf = BitVec.ofNat 16 (buf[0].toNat * 256 + buf[1].toNat) := BitVec.ofInt_natCast _ _
  rw [h, ← toNat_append_bytes]
  exact BitVec.ofNat_toNat _ _ |>.trans (BitVec.setWidth_eq _)

theorem wrap16_fits {v : Int} (hlo : -32768 ≤ v) (hhi : v < 32768) : (wrap16 v).toInt = v := by
  simp only [wrap16, BitVec.toInt_ofInt]
  rw [Int.bmod_eq_of_le] <;> omega

/-- Sign and magnitude (D12): bit 15 of the raw value is bit 7 of byte 2. -/
theorem temperatureOf_toInt (buf : Packet) :
    (temperatureOf buf).toInt =
      (if buf[2].msb then -1 else 1) * (((buf[2].toNat % 128) * 256 + buf[3].toNat : Nat) : Int) := by
  have h2 := buf[2].isLt
  have h3 := buf[3].isLt
  have hmag : (buf[2].toNat * 256 + buf[3].toNat) % 32768 = buf[2].toNat % 128 * 256 + buf[3].toNat := by omega
  have hsign : buf[2].toNat * 256 + buf[3].toNat ≥ 32768 ↔ buf[2].msb = true := by
    rw [BitVec.msb_eq_decide, decide_eq_true_eq]
    omega
  simp only [temperatureOf, hmag, hsign]
  split <;> rw [wrap16_fits (by omega) (by omega)] <;> ring

theorem hostCompletes_done {s : State} (hs : s.run.served = some .host) (hd : s.cli.done = true) :
    runInput .swdReturn s = .next (takeCompletion s) := if_pos ⟨hs, hd⟩

/-- Settles O27. -/
theorem completionReturnsTheReading : Obligations.CompletionReturnsTheReading := by
  refine fun s hs hd => ⟨fun herr => ?_, fun hok => ?_⟩
  · rw [hostCompletes_done hs hd, takeCompletion_eq]
    simp only [if_neg herr]
  · refine ⟨temperatureOf s.cli.buf, humidityOf s.cli.buf, ?_, humidityOf_eq _, temperatureOf_toInt _⟩
    rw [hostCompletes_done hs hd, takeCompletion_eq]
    simp only [hok, if_true]
    rfl

end Sys2Proof.Machine
end

section
/-!
SUPPORT. The exchange as a function of its samples (41_sensor_decoder.md R144): the machine, fed one sample at a time,
against `exchange`.
-/
namespace Sys2Proof.Machine

/-- What the machine `t`, fed from `s`, shows of the outcome of `swd_run`. -/
def ShowsOutcome (s t : State) : Exchange → Prop
  | .pending => Waiting t ∧ t.swd.irqEn = true ∧ t.cli = s.cli
  | .error e => t = endedWith e t
  | .reading temperature humidity =>
    t = endedWith 0 t ∧ temperatureOf t.cli.buf = temperature ∧ humidityOf t.cli.buf = humidity

/-- Equal but for the sample and the signal. -/
structure SampleTaken (s t : State) : Prop where
  conf : t.conf = s.conf
  cli : t.cli = s.cli
  phase : t.swd.phase = s.swd.phase
  irqEn : t.swd.irqEn = s.swd.irqEn
  bit : t.swd.bit = s.swd.bit
  buf : t.swd.buf = s.swd.buf

/-- The sample is consumed as the symbol that its word decodes to; a timeout stores the word 0, which decodes alike. -/
theorem feed_waiting {s : State} (hw : Waiting s) (hi : s.swd.irqEn = true) (w : Word) : ∃ t, SampleTaken s t ∧
    feed w s = .next (symbolEffect (currentSymbol { s with swd.sample := w }) t) := by
  by_cases h0 : samplePeriod w = 0
  · have hfire : exec .swdIrqCapto s = .next (storeSample (packSample 0 0) s) := if_pos hi
    have hsym : currentSymbol { s with swd.sample := w } = .timeout := currentSymbol_timeout h0
    have hconsume : exec .swdConsume (storeSample (packSample 0 0) s) = _ := exec_swdConsume_ready hw rfl
    refine ⟨{ s with swd.sample := packSample 0 0, swd.sig := false }, ⟨rfl, rfl, rfl, rfl, rfl, rfl⟩, ?_⟩
    rw [feed, if_pos h0, hfire, hsym]
    exact hconsume.trans (congrArg _ (consumeSample_of_symbol (currentSymbol_timeout (samplePeriod_packSample 0 0))))
  · have hfire := exec_swdIrqCapture_enabled (sampleSecond w) h0 hi
    have hconsume : exec .swdConsume (storeSample w s) = _ := exec_swdConsume_ready hw rfl
    refine ⟨{ s with swd.sample := w, swd.sig := false }, ⟨rfl, rfl, rfl, rfl, rfl, rfl⟩, ?_⟩
    rw [feed, if_neg h0, hfire, packSample_parts]
    exact hconsume

theorem feed_disabled {s : State} (hi : s.swd.irqEn = false) (w : Word) :
    feed w s = .refused .swdInterruptsDisabled := by
  by_cases h0 : samplePeriod w = 0
  · have hfire : exec .swdIrqCapto s = .refused .swdInterruptsDisabled := if_neg (by simp [hi])
    rw [feed, if_pos h0, hfire]
  · rw [feed, if_neg h0, exec_swdIrqCapture_disabled _ h0 hi]

theorem feedAll_disabled {s : State} (hi : s.swd.irqEn = false) (ws : List Word) : feedAll ws s = s := by
  cases ws with
  | nil => rfl
  | cons w ws => rw [feedAll, feed_disabled hi]

theorem feedAll_cons {w : Word} {ws : List Word} {s t : State} (h : feed w s = .next t) :
    feedAll (w :: ws) s = feedAll ws t := by rw [feedAll, h]

/-- Once the exchange has ended nothing is consumed any more. -/
theorem feedAll_ended {w : Word} {ws : List Word} {s t : State} {e : Byte} (h : feed w s = .next (swdFinish e t)) :
    feedAll (w :: ws) s = swdFinish e t := by
  rw [feedAll_cons h]
  exact feedAll_disabled rfl ws

theorem showsOutcome_error (e : Byte) (s t : State) : ShowsOutcome s (swdFinish e t) (.error e) := rfl

/-- What `swd_run` answers after the last bit (R144). -/
def lastOutcome (buf : Packet) : Exchange :=
  if checksumOk buf then .reading (temperatureOf buf) (humidityOf buf) else .error statusChecksumError

theorem showsOutcome_last (s : State) {t : State} {buf : Packet} (hbuf : t.swd.buf = buf) :
    ShowsOutcome s (swdFinish (checksumCode buf) t) (lastOutcome buf) := by
  subst hbuf
  unfold checksumCode lastOutcome
  split
  · exact ⟨rfl, rfl, rfl⟩
  · rfl

theorem exchangeBits_bit {c : Config} {w : Word} {b : Bool} (h : classifyBit c w = bitSymbol b) (ws : List Word) (k : Nat)
    (buf : Packet) : exchangeBits c (w :: ws) k buf =
      if k + 1 = c.nBits then lastOutcome (storeBit buf k b) else exchangeBits c ws (k + 1) (storeBit buf k b) := by
  cases b <;> (simp only [exchangeBits, h]; rfl)

theorem ShowsOutcome.of_cli {s s' t : State} {x : Exchange} (h : ShowsOutcome s' t x) (hcli : s'.cli = s.cli) :
    ShowsOutcome s t x := by
  cases x with
  | pending => exact ⟨h.1, h.2.1, h.2.2.trans hcli⟩
  | error e => exact h
  | reading temperature humidity => exact h

/-- The bits from the sequencer's own position on. -/
theorem feedAll_bits (ws : List Word) (s : State) (hphase : s.swd.phase = .waitBit) (hi : s.swd.irqEn = true) :
    ShowsOutcome s (feedAll ws s) (exchangeBits s.conf ws s.swd.bit s.swd.buf) := by
  induction ws generalizing s with
  | nil => exact ⟨.inr hphase, hi, rfl⟩
  | cons w ws ih =>
    obtain ⟨t, ht, hfeed⟩ := feed_waiting (.inr hphase) hi w
    have hsym : currentSymbol { s with swd.sample := w } = classifyBit s.conf w := currentSymbol_waitBit hphase
    have bit : ∀ b, classifyBit s.conf w = bitSymbol b →
        ShowsOutcome s (feedAll (w :: ws) s) (exchangeBits s.conf (w :: ws) s.swd.bit s.swd.buf) := by
      intro b hb
      rw [hsym, hb, symbolEffect_bitSymbol] at hfeed
      rw [exchangeBits_bit hb, ← ht.conf, ← ht.bit, ← ht.buf]
      split
      · rename_i hlast
        rw [takeBit_last hlast] at hfeed
        rw [feedAll_ended hfeed]
        exact showsOutcome_last s rfl
      · rename_i hmore
        rw [takeBit_more hmore] at hfeed
        rw [feedAll_cons hfeed]
        refine ShowsOutcome.of_cli (ih _ ?_ ?_) ht.cli
        · exact ht.phase.trans hphase
        · exact ht.irqEn.trans hi
    cases hc : classifyBit s.conf w with
    | start => exact absurd hc (classifyBit_ne_start _ _)
    | bit0 => exact bit false hc
    | bit1 => exact bit true hc
    | invalid | timeout =>
      rw [hsym, hc] at hfeed
      rw [feedAll_ended hfeed]
      simp only [exchangeBits, hc]
      exact showsOutcome_error _ s _

theorem feedAll_exchange (ws : List Word) (s : State) (hphase : s.swd.phase = .waitStart) (hi : s.swd.irqEn = true)
    (hbuf : s.swd.buf = Packet.zero) : ShowsOutcome s (feedAll ws s) (exchange s.conf ws) := by
  cases ws with
  | nil => exact ⟨.inl hphase, hi, rfl⟩
  | cons w ws =>
    obtain ⟨t, ht, hfeed⟩ := feed_waiting (.inl hphase) hi w
    have hsym : currentSymbol { s with swd.sample := w } = classifyStart s.conf w := currentSymbol_waitStart hphase
    obtain ⟨hne0, hne1⟩ := classifyStart_ne_bit s.conf w
    cases hc : classifyStart s.conf w with
    | bit0 => exact absurd hc hne0
    | bit1 => exact absurd hc hne1
    | start =>
      rw [hsym, hc] at hfeed
      rw [feedAll_cons hfeed]
      simp only [exchange, hc]
      rw [← hbuf, ← ht.buf, ← ht.conf]
      exact (feedAll_bits ws (takeStart t) rfl (ht.irqEn.trans hi)).of_cli ht.cli
    | invalid | timeout =>
      rw [hsym, hc] at hfeed
      rw [feedAll_ended hfeed]
      simp only [exchange, hc]
      exact showsOutcome_error _ s _

/-- Settles O28: `ShowsOutcome` is the statement's own match. -/
theorem exchangeComputesSwdRun : Obligations.ExchangeComputesSwdRun := by
  intro s ws hphase hi hbuf
  have h := feedAll_exchange ws s hphase hi hbuf
  cases hx : exchange s.conf ws <;> exact hx ▸ h

end Sys2Proof.Machine
end

section
/-!
SUPPORT. The actuator's commands (42_phase_actuator.md R162, R165), its zero crossing (R166) and Counter C (R170).
-/
namespace Sys2Proof.Machine

/-! ### PCA_INIT and PCA_SET -/

theorem getElem?_zero_getD (l : List Word) : l[0]?.getD 0 = l.headD 0 := by cases l <;> rfl

theorem exec_pcaInit_legal {s : State} (hi : s.pca.irqEn = false) (hok : phaseTableOk s.conf = true) :
    exec .pcaInit s = .next { s with
      pca.table := s.conf.pcaTable, pca.level := 0, pca.phaseEntry := s.conf.pcaTable.headD 0
      pca.width := 0, pca.bypass := false, pca.irqEn := true, cmd.status := 0 } := by
  change execPcaInit s = _
  rw [execPcaInit, if_neg (by simp [hi]), if_pos hok, getElem?_zero_getD]
  rfl

theorem exec_pcaInit_again {s : State} (hi : s.pca.irqEn = true) :
    exec .pcaInit s = .refused .pcaAlreadyInitialised := if_pos hi

theorem exec_pcaInit_illegal {s : State} (hi : s.pca.irqEn = false) (hok : phaseTableOk s.conf = false) :
    exec .pcaInit s = .refused .phaseTableIllFormed := by
  change execPcaInit s = _
  rw [execPcaInit, if_neg (by simp [hi]), if_neg (by simp [hok])]

/-- Settles O29. -/
theorem initLoadsTheTable : Obligations.InitLoadsTheTable := fun _ =>
  ⟨exec_pcaInit_legal, exec_pcaInit_again, exec_pcaInit_illegal⟩

theorem setLevel_uninitialised {v : Word} {s : State} (hi : s.pca.irqEn = false) :
    setLevel v s = .refused .pcaNotInitialised := by
  rw [setLevel, if_pos hi]

theorem setLevel_off {v : Word} {s : State} (hi : s.pca.irqEn = true) (hv : v.toInt ≤ 0) :
    setLevel v s = .next { s with
      pca.level := v, pca.bypass := false, pca.width := 0, cmd.status := 0 } := by
  rw [setLevel, if_neg (by simp [hi]), if_pos hv]
  rfl

theorem setLevel_on {v : Word} {s : State} (hi : s.pca.irqEn = true) (hv : 0 < v.toInt)
    (hmax : (s.conf.pcaMax : Int) ≤ v.toInt) :
    setLevel v s = .next { s with pca.level := v, pca.bypass := true, pca.width := 0, cmd.status := 0 } := by
  rw [setLevel, if_neg (by simp [hi]), if_neg (Int.not_le.mpr hv), if_pos hmax]
  rfl

theorem setLevel_interior {v : Word} {s : State} (hi : s.pca.irqEn = true) (hv : 0 < v.toInt)
    (hmax : v.toInt < (s.conf.pcaMax : Int)) :
    setLevel v s = .next { s with
      pca.level := v, pca.bypass := false, pca.width := s.conf.pcaPulseW, pca.phaseEntry := tableEntry s v.toNat
      cmd.status := 0 } := by
  have hnat : v.toInt.toNat = v.toNat := by
    rw [BitVec.toInt_eq_toNat_of_msb (by by_contra hm; have := BitVec.toInt_neg_of_msb_true (by simpa using hm); omega)]
    rfl
  rw [setLevel, if_neg (by simp [hi]), if_neg (Int.not_le.mpr hv), if_neg (Int.not_le.mpr hmax), hnat]
  rfl

/-- Settles O30. -/
theorem setSelectsOffOnOrPhase : Obligations.SetSelectsOffOnOrPhase := by
  refine fun s => ⟨setLevel_off, setLevel_on, fun e hi hv hmax he => ?_, setLevel_uninitialised⟩
  have hentry : tableEntry s s.cmd.a0.toNat = e := by rw [tableEntry, he, Option.getD_some]
  rw [← hentry]
  exact setLevel_interior hi hv hmax

/-! ### PCA_IRQ_ZC -/

theorem exec_pcaIrqZc_enabled {s : State} (hi : s.pca.irqEn = true) (p q : Half) :
    exec (.pcaIrqZc p q) s = .next (zeroCrossing p q s) := if_pos hi

theorem exec_pcaIrqZc_disabled {s : State} (hi : s.pca.irqEn = false) (p q : Half) :
    exec (.pcaIrqZc p q) s = .refused .pcaInterruptDisabled := if_neg (by simp [hi])

theorem halfPeriod_cases (p : Half) : 2 * halfPeriod p = p.toNat ∨ 2 * halfPeriod p + 1 = p.toNat := by
  rw [halfPeriod, asr_eq]
  omega

/-- Settles O31: `halfPeriod` and the two shifts of `phaseDelay` are floors. -/
theorem zeroCrossingLoadsTheDelay : Obligations.ZeroCrossingLoadsTheDelay := by
  intro s period offset hi
  refine ⟨packSample period offset, wrap16 (halfPeriod period - 1),
    wrap16 (phaseDelay s.conf.pcaShift s.pca.phaseEntry period offset), exec_pcaIrqZc_enabled hi period offset,
    samplePeriod_packSample _ _, sampleSecond_packSample _ _, halfPeriod period,
    asr (offset.toNat - halfPeriod period) 1, asr (s.pca.phaseEntry.toNat * halfPeriod period) s.conf.pcaShift,
    halfPeriod_cases period, ?_, ?_, asr_le _ _, lt_asr _ _, wrap16_dvd _, wrap16_dvd _⟩
  · have := asr_le ((offset.toNat : Int) - halfPeriod period) 1
    omega
  · have := lt_asr ((offset.toNat : Int) - halfPeriod period) 1
    omega

theorem asr_mono {v w : Int} (h : v ≤ w) (n : Nat) : asr v n ≤ asr w n := by
  rw [asr_eq, asr_eq]
  exact Int.ediv_le_ediv (by positivity) h

/-- Settles O32: the table does not increase, and the delay is monotone in the entry. -/
theorem higherLevelNeverDelaysLonger : Obligations.HigherLevelNeverDelaysLonger := by
  intro c a b ea eb period offset hok _ hab _ hea heb
  simp only [phaseTableOk, Bool.and_eq_true] at hok
  have hle : eb.toNat ≤ ea.toNat := nonIncreasing_getElem hok.2 hab.le hea heb
  have hhalf : 0 ≤ halfPeriod period := by
    have := halfPeriod_cases period
    omega
  have hmul : (eb.toNat : Int) * halfPeriod period ≤ ea.toNat * halfPeriod period :=
    mul_le_mul_of_nonneg_right (by exact_mod_cast hle) hhalf
  exact Int.add_le_add_left (asr_mono hmul c.pcaShift) _

/-! ### Counter C -/

/-- Settles O34. -/
theorem reloadOfCBeginsAPulse : Obligations.ReloadOfCBeginsAPulse := fun _ hc =>
  ⟨if_pos hc, fun hm => pcaDrive_of_cCnt_zero hc rfl (width_pos_of_pcaMode_phase hm)⟩

end Sys2Proof.Machine
end

section
/-!
SUPPORT. PCA_READ (42_phase_actuator.md R171, R172): its completion, its expiry, and the crossing that comes second.
-/
namespace Sys2Proof.Machine

theorem pcaCompletes_due {s : State} (hb : s.run.pcaReadBlocked = true) (hs : s.pca.sig = true) :
    runInput .pcaReturn s = .next (completeRead s) := if_pos ⟨hb, hs⟩

theorem pcaCompletes_noCrossing {s : State} (hs : s.pca.sig = false) :
    runInput .pcaReturn s = .refused .taskBlocked := if_neg (by simp [hs])

theorem exec_pcaReadExpire_silent {s : State} (hb : s.run.pcaReadBlocked = true) (hs : s.pca.sig = false) :
    exec .pcaReadExpire s = .next (readExpires s) := if_pos ⟨hb, hs⟩

theorem exec_pcaReadExpire_crossed {s : State} (hs : s.pca.sig = true) :
    exec .pcaReadExpire s = .refused .readWindowOpen := if_neg (by simp [hs])

/-- A step whose input answers a next state goes there, and accepts a held read where one now can be. -/
theorem step_of_runInput {s t : State} {x : Input} {rest : List Input} (htr : s.trace = x :: rest)
    (h : runInput x { s with trace := rest } = .next t) : step s = .next (settle t) := by
  rw [step, htr]
  simp only [stepInput, h, andThen]

/-- A crossing as an event: a read that is due completes first (log 30). -/
theorem runInput_crossing {s : State} (hi : s.pca.irqEn = true) (w : Word) :
    runInput (.event 0x90 w) s = .next (zeroCrossing (samplePeriod w) (sampleSecond w) (readDue s)) :=
  exec_pcaIrqZc_enabled ((readDue_irqEn s).trans hi) _ _

theorem step_pcaRead {s : State} {rest : List Input} (htr : s.trace = .issue 0x21 :: rest) :
    ∃ t, step s = .next t ∧ t.pca.irqEn = s.pca.irqEn ∧ t.pca.sig = false ∧ t.run.pcaReadBlocked = true ∧
      t.trace = rest := by
  refine ⟨_, step_of_runInput htr rfl, ?_⟩
  simp

/-- A step that is a crossing: `r` is what the completion before it, if one is due, leaves. -/
theorem step_crossing {s r : State} {w : Word} {rest : List Input} (hi : s.pca.irqEn = true)
    (htr : s.trace = .event 0x90 w :: rest) (hr : readDue { s with trace := rest } = r) :
    ∃ t, step s = .next t ∧ t.pca.irqEn = true ∧ t.pca.sig = true ∧ t.pca.sample = w ∧
      t.run.pcaReadBlocked = r.run.pcaReadBlocked ∧ t.cmd = r.cmd ∧ t.trace = rest := by
  have hrun := runInput_crossing (s := { s with trace := rest }) hi w
  rw [hr] at hrun
  refine ⟨_, step_of_runInput htr hrun, ?_⟩
  simp [← hr, hi]

/-- The command and two crossings as events: the second finds the first's completion due. -/
theorem twoCrossings_events {s : State} {w w' : Word} {rest : List Input} (hi : s.pca.irqEn = true)
    (htr : s.trace = .issue 0x21 :: .event 0x90 w :: .event 0x90 w' :: rest) :
    ∃ t u v, step s = .next t ∧ step t = .next u ∧ step u = .next v ∧
      v.run.pcaReadBlocked = false ∧ v.cmd.status = 0 ∧
      v.cmd.r0 = (samplePeriod w).zeroExtend 32 ∧ v.cmd.r1 = (sampleSecond w).zeroExtend 32 ∧
      v.pca.sample = w' ∧ v.pca.sig = true := by
  obtain ⟨t, hst, hti, htsig, htb, httr⟩ := step_pcaRead htr
  obtain ⟨u, htu, hui, husig, husample, hub, _, hutr⟩ :=
    step_crossing (hti.trans hi) httr (readDue_idle (by simp [htsig]))
  obtain ⟨v, huv, _, hvsig, hvsample, hvb, hvcmd, _⟩ :=
    step_crossing hui hutr (readDue_due (hub.trans htb) husig)
  refine ⟨t, u, v, hst, htu, huv, hvb, ?_, ?_, ?_, hvsample, hvsig⟩
  · rw [hvcmd]
    rfl
  · rw [hvcmd, ← husample]
    rfl
  · rw [hvcmd, ← husample]
    rfl

/-- The same where the second crossing comes on a tick. -/
theorem secondCrossing_tick {s : State} (low consume : Bool) (hi : s.pca.irqEn = true) (hf : s.pca.aFirst = false)
    (hp : s.pca.aPrev = false) (hb : s.run.pcaReadBlocked = true) (hs : s.pca.sig = true) {t : State}
    (ht : t = tick low true consume s) :
    t.run.pcaReadBlocked = false ∧ t.pca.sig = true ∧
      t.cmd.r0 = (samplePeriod s.pca.sample).zeroExtend 32 ∧ t.cmd.r1 = (sampleSecond s.pca.sample).zeroExtend 32 ∧
      samplePeriod t.pca.sample = s.pca.aCnt + 1 ∧ sampleSecond t.pca.sample = s.pca.aHigh := by
  have hturn : hostTurn true s = completeRead s := by
    rw [hostTurn, if_pos (by simp [crosses, rises, hi, hf, hp]), readDue_due hb hs]
  have hcross : counterA true (captureUnit (linePin low (completeRead s)) (completeRead s)) = _ :=
    counterA_rise (by simpa using hi) (by simpa using hp) (by simpa using hf) rfl
  rw [tick, hturn] at ht
  rw [hcross] at ht
  subst ht
  simp [readTimer_idle, zext32]

/-- Settles O35. -/
theorem diagnosticReadReturnsOrReportsNoSignal : Obligations.DiagnosticReadReturnsOrReportsNoSignal := by
  refine fun s => ⟨rfl, fun hb hs => ⟨pcaCompletes_due hb hs, exec_pcaReadExpire_crossed hs⟩,
    fun hb hs => ⟨pcaCompletes_noCrossing hs, exec_pcaReadExpire_silent hb hs⟩,
    fun w w' rest hi htr => twoCrossings_events hi htr, fun low consume hi hf hp hb hs => ?_⟩
  exact ⟨_, rfl, secondCrossing_tick low consume hi hf hp hb hs rfl⟩

end Sys2Proof.Machine
end

section
/-!
SUPPORT. Firings: what an interrupt source does while its enable is 1 and while it is 0 (20_memory.md R72;
60_exceptions.md R232).
-/
namespace Sys2Proof.Machine

theorem exec_swdIrqCapto_enabled {s : State} (hi : s.swd.irqEn = true) :
    exec .swdIrqCapto s = .next (storeSample (packSample 0 0) s) := if_pos hi

theorem exec_swdIrqCapto_disabled {s : State} (hi : s.swd.irqEn = false) :
    exec .swdIrqCapto s = .refused .swdInterruptsDisabled := if_neg (by simp [hi])

/-- The two firings of the capture unit, and the word each stores. -/
inductive FiresWord : Instr → Word → Prop
  | timeout : FiresWord .swdIrqCapto (packSample 0 0)
  | capture {p : Half} (hp : p ≠ 0) (q : Half) : FiresWord (.swdIrqCapture p q) (packSample p q)

theorem FiresWord.exec {i : Instr} {w : Word} (h : FiresWord i w) {s : State} (hi : s.swd.irqEn = true) :
    exec i s = .next (storeSample w s) := by
  cases h with
  | timeout => exact exec_swdIrqCapto_enabled hi
  | capture hp q => exact exec_swdIrqCapture_enabled q hp hi

theorem firesWord_of {i : Instr} (h : i = .swdIrqCapto ∨ ∃ p q, p ≠ 0 ∧ i = .swdIrqCapture p q) :
    ∃ w, FiresWord i w := by
  obtain rfl | ⟨p, q, hp, rfl⟩ := h
  · exact ⟨_, .timeout⟩
  · exact ⟨_, .capture hp q⟩

theorem symbolEffect_sig (sym : Symbol) {s : State} (hs : s.swd.sig = false) : (symbolEffect sym s).swd.sig = false := by
  cases sym with
  | invalid | timeout => rfl
  | start => exact hs
  | bit0 | bit1 =>
    simp only [symbolEffect, takeBit]
    split
    · rfl
    · exact hs

/-- Settles O17: a second store of the sample word replaces the first, and one consumption takes the signal. -/
theorem secondFiringOverwritesTheFirst : Obligations.SecondFiringOverwritesTheFirst := by
  refine ⟨fun s i j hi hfi hfj => ?_, fun s p q p' q' hi => ?_⟩
  · obtain ⟨w, hw⟩ := firesWord_of hfi
    obtain ⟨w', hw'⟩ := firesWord_of hfj
    refine ⟨storeSample w s, storeSample w' s, hw.exec hi, rfl, hw'.exec hi, hw'.exec hi, rfl, ?_, ?_, fun hwait => ?_⟩
    · rintro rfl
      cases hw'
      rfl
    · rintro a b rfl
      cases hw'
      exact ⟨samplePeriod_packSample a b, sampleSecond_packSample a b⟩
    · exact ⟨_, exec_swdConsume_ready hwait rfl, exec_swdConsume_noSignal (symbolEffect_sig _ rfl)⟩
  · refine ⟨_, zeroCrossing p' q' s, exec_pcaIrqZc_enabled hi p q, rfl, exec_pcaIrqZc_enabled hi p' q',
      exec_pcaIrqZc_enabled hi p' q', rfl, samplePeriod_packSample _ _, sampleSecond_packSample _ _, fun hb => ?_⟩
    refine ⟨_, pcaCompletes_due hb rfl, ?_⟩
    simp [zext32]

/-- Settles O18. -/
theorem interruptsFollowTheirEnables : Obligations.InterruptsFollowTheirEnables := by
  refine fun s => ⟨exec_swdIrqCapto_enabled, fun t p q hi => ⟨?_, ?_⟩, fun t p q hi => ?_⟩
  · have h : IfNext (fun _ => False) (exec (.swdIrqCapture p q) s) :=
      (execSwdIrqCapture_ifNext p q).mpr fun _ hen => absurd (hi.symm.trans hen) (by decide)
    exact fun ht => h.of_eq ht
  · rw [exec_swdIrqCapto_disabled hi]
    simp
  · rw [exec_pcaIrqZc_disabled hi]
    simp

end Sys2Proof.Machine
end

section
/-!
SUPPORT. PID_COMPUTE (43_pid.md R192 to R195): its first call, its later calls, its refusal; the bounds of its output (R200).
-/
namespace Sys2Proof.Machine

/-- The state a call leaves, whatever its output `r` and the accumulator `i`. -/
def computed (input sp ts r i : Word) (s : State) : State :=
  { s with
    cmd.r0 := r, cmd.status := statusOk, pid.integral := i
    pid.prevError := wrap32 (sp.toInt - input.toInt), pid.prevTs := ts, pid.hasPrev := true }

theorem pidStep_first {input sp ts : Word} {s : State} (hp : s.pid.hasPrev = false) :
    pidStep input sp ts s = .next (computed input sp ts
      (wrap32 (pidFirstOut s.conf.fxFrac s.pid (sp.toInt - input.toInt))) s.pid.integral s) := if_pos hp

theorem pidStep_backwards {input sp ts : Word} {s : State} (hp : s.pid.hasPrev = true)
    (hdt : (ts - s.pid.prevTs).toInt < 0) : pidStep input sp ts s = .refused .timestampBackwards := by
  rw [← pidDt_eq] at hdt
  rw [pidStep, if_neg (by simp [hp]), if_pos hdt]

/-- A later call, its intermediates given by equations (R192). -/
theorem pidStep_later {input sp ts i : Word} {s : State} {e dt : Int} (hp : s.pid.hasPrev = true)
    (hdt : dt = (ts - s.pid.prevTs).toInt) (h0 : 0 ≤ dt) (he : e = sp.toInt - input.toInt)
    (hi : i = pidIntegral s.conf.fxFrac s.pid e dt) :
    pidStep input sp ts s = .next (computed input sp ts
      (wrap32 (pidLaterOut s.conf.fxFrac s.pid e dt i)) i s) := by
  rw [← pidDt_eq] at hdt
  subst hi he hdt
  rw [pidStep, if_neg (by simp [hp]), if_neg (Int.not_lt.mpr h0)]
  rfl

/-- The clamped output, as the statements write it. -/
theorem wrap32_clamp_toInt (v : Int) (lo hi : Word) : (wrap32 (clamp v lo.toInt hi.toInt)).toInt =
    if v < lo.toInt then lo.toInt else if hi.toInt < v then hi.toInt else v := clamp_toInt v lo hi

theorem pidFirstOut_toInt {f : Nat} {pid : Pid} {e p : Int} (hp : p = pid.kp.toInt * e / 2 ^ f) :
    (wrap32 (pidFirstOut f pid e)).toInt =
      if p < pid.low.toInt then pid.low.toInt else if pid.high.toInt < p then pid.high.toInt else p := by
  rw [hp, ← fxMulWide_eq]
  exact wrap32_clamp_toInt _ _ _

/-- Settles O38. -/
theorem firstComputeSeeds : Obligations.FirstComputeSeeds := by
  intro s e p hprev he hp
  subst he
  exact ⟨_, pidStep_first hprev, pidFirstOut_toInt hp⟩

theorem pidIntegral_eq (f : Nat) (p : Pid) (e dt : Int) :
    pidIntegral f p e dt = BitVec.ofInt 32 (pidReclamp f p (p.integral.toInt + e * dt / 2 ^ f)) := by
  rw [pidIntegral, fxMulWide_eq]
  rfl

theorem pidDeriv_eq (f : Nat) (p : Pid) (e dt : Int) :
    pidDeriv f p e dt = if dt = 0 then 0 else Int.tdiv ((e - p.prevError.toInt) * 2 ^ f) dt := by
  rw [pidDeriv, fxDivWide_eq]

theorem pidLaterOut_toInt {f : Nat} {pid : Pid} {e dt out : Int} {i : Word}
    (hout : out = pid.kp.toInt * e / 2 ^ f + pid.ki.toInt * i.toInt / 2 ^ f + pid.kd.toInt * pidDeriv f pid e dt / 2 ^ f) :
    (wrap32 (pidLaterOut f pid e dt i)).toInt =
      if out < pid.low.toInt then pid.low.toInt else if pid.high.toInt < out then pid.high.toInt else out := by
  simp only [hout, ← fxMulWide_eq]
  exact wrap32_clamp_toInt _ _ _

/-- Settles O39. -/
theorem laterComputeCombinesThreeTerms : Obligations.LaterComputeCombinesThreeTerms := by
  intro s e dt deriv out i hprev he hdt hi hderiv hout
  rw [← pidDeriv_eq] at hderiv
  rw [← pidIntegral_eq] at hi
  rw [hderiv] at hout
  refine ⟨fun hneg => pidStep_backwards hprev (hdt ▸ hneg), fun h0 => ⟨_, ?_, pidLaterOut_toInt hout⟩⟩
  have hstep := pidStep_later hprev hdt h0 he hi
  rw [computed, ← he] at hstep
  exact hstep

/-- Settles O40: with `Ki = Kd = 0` two of the three terms are 0, in a first call and in a later one. -/
theorem proportionalOnlyIsExact : Obligations.ProportionalOnlyIsExact := by
  intro s p hki hkd hdt hp
  cases hprev : s.pid.hasPrev with
  | false => exact ⟨_, pidStep_first hprev, pidFirstOut_toInt hp⟩
  | true =>
    have h0 : 0 ≤ (s.cmd.a2 - s.pid.prevTs).toInt := hdt.resolve_left (by simp [hprev])
    exact ⟨_, pidStep_later hprev rfl h0 rfl rfl, pidLaterOut_toInt (by simp [hki, hkd, hp])⟩

/-- Settles O41: either output is a clamped value. -/
theorem outputStaysWithinLimits : Obligations.OutputStaysWithinLimits := by
  intro s t hle ht
  have bounded : ∀ v, s.pid.low.toInt ≤ (wrap32 (clamp v s.pid.low.toInt s.pid.high.toInt)).toInt ∧
      (wrap32 (clamp v s.pid.low.toInt s.pid.high.toInt)).toInt ≤ s.pid.high.toInt := fun v => by
    rw [clamp_toInt]
    exact clamp_mem hle
  have h : IfNext (fun t => s.pid.low.toInt ≤ t.cmd.r0.toInt ∧ t.cmd.r0.toInt ≤ s.pid.high.toInt) (exec .pidCompute s) :=
    (pidStep_ifNext _ _ _).mpr ⟨fun _ => bounded _, fun _ _ _ _ => bounded _⟩
  exact h.of_eq ht

/-- Settles O42. -/
theorem setCoefOnlyReplacesGains : Obligations.SetCoefOnlyReplacesGains := fun _ => rfl

end Sys2Proof.Machine
end

section
/-!
SUPPORT. The reclamp (43_pid.md R191, R197): its cases, and what the anti-windup keeps true (R199).
-/
namespace Sys2Proof.Machine

section Cases
variable {f : Nat} {p : Pid} {i term : Int} (hterm : term = p.ki.toInt * i / 2 ^ f)
include hterm

theorem pidReclamp_above (hki : p.ki ≠ 0) (h : p.high.toInt < term) :
    pidReclamp f p i = Int.tdiv (p.high.toInt * 2 ^ f) p.ki.toInt := by
  rw [hterm, ← fxMulWide_eq] at h
  rw [pidReclamp, if_neg (toInt_ne_zero hki), if_pos h, fxDivWide_eq]

theorem pidReclamp_below (hki : p.ki ≠ 0) (h : term ≤ p.high.toInt) (hlow : term < p.low.toInt) :
    pidReclamp f p i = Int.tdiv (p.low.toInt * 2 ^ f) p.ki.toInt := by
  rw [hterm, ← fxMulWide_eq] at h hlow
  rw [pidReclamp, if_neg (toInt_ne_zero hki), if_neg (Int.not_lt.mpr h), if_pos hlow, fxDivWide_eq]

theorem pidReclamp_within (h : term ≤ p.high.toInt) (hlow : p.low.toInt ≤ term) : pidReclamp f p i = i := by
  rw [hterm, ← fxMulWide_eq] at h hlow
  rw [pidReclamp, if_neg (Int.not_lt.mpr h), if_neg (Int.not_lt.mpr hlow), ite_self]

end Cases

theorem pidReclamp_noGain {f : Nat} {p : Pid} (i : Int) (hki : p.ki = 0) : pidReclamp f p i = i :=
  if_pos (by simp [hki])

/-- Settles O43. -/
theorem setLimitsReclampsAtOnce : Obligations.SetLimitsReclampsAtOnce := by
  intro s term hterm
  refine ⟨wrap32 (pidReclamp s.conf.fxFrac { s.pid with low := s.cmd.a0, high := s.cmd.a1 } s.pid.integral.toInt), rfl,
    fun hki => ?_, fun hki h => ?_, fun hki h hlow => ?_, fun h hlow => ?_⟩
  · rw [pidReclamp_noGain _ (by exact hki), wrap32_toInt]
  · exact congrArg wrap32 (pidReclamp_above (p := { s.pid with low := s.cmd.a0, high := s.cmd.a1 }) hterm hki h)
  · exact congrArg wrap32 (pidReclamp_below (p := { s.pid with low := s.cmd.a0, high := s.cmd.a1 }) hterm hki h hlow)
  · have hsame := pidReclamp_within (p := { s.pid with low := s.cmd.a0, high := s.cmd.a1 }) hterm h hlow
    exact (congrArg wrap32 hsame).trans (wrap32_toInt _)

/-- A bound divided by `Ki` and multiplied again misses it by less than `|Ki|`, so by at most `slack` once scaled. -/
theorem term_near_bound {f : Nat} {k slack : Int} (bound : Int) (hk : k ≠ 0) (hslack : |k| ≤ slack * 2 ^ f) :
    bound - slack ≤ k * Int.tdiv (bound * 2 ^ f) k / 2 ^ f ∧
      k * Int.tdiv (bound * 2 ^ f) k / 2 ^ f ≤ bound + slack := by
  have hpos : (0 : Int) < 2 ^ f := by positivity
  have hrem := tmod_abs_lt (bound * 2 ^ f) hk
  have hdiv := Int.mul_tdiv_add_tmod (bound * 2 ^ f) k
  obtain ⟨hlo, hhi⟩ := abs_lt.mp (hrem.trans_le hslack)
  constructor
  · refine Int.le_ediv_of_mul_le hpos ?_
    linarith [sub_mul bound slack (2 ^ f)]
  · refine Int.ediv_le_of_le_mul hpos ?_
    linarith [add_mul bound slack (2 ^ f)]

/-- The reclamped accumulator's term lies within the bounds up to `slack` (R199). -/
theorem reclamped_term_bounds {f : Nat} {p : Pid} {i slack : Int} (hki : p.ki ≠ 0) (hle : p.low.toInt ≤ p.high.toInt)
    (hslack : |p.ki.toInt| ≤ slack * 2 ^ f) :
    p.low.toInt - slack ≤ p.ki.toInt * pidReclamp f p i / 2 ^ f ∧
      p.ki.toInt * pidReclamp f p i / 2 ^ f ≤ p.high.toInt + slack := by
  have h0 : 0 ≤ slack := nonneg_of_mul_nonneg_left ((abs_nonneg _).trans hslack) (by positivity)
  rcases lt_or_ge p.high.toInt (p.ki.toInt * i / 2 ^ f) with habove | hhigh
  · rw [pidReclamp_above rfl hki habove]
    have := term_near_bound (f := f) p.high.toInt (toInt_ne_zero hki) hslack
    omega
  · rcases lt_or_ge (p.ki.toInt * i / 2 ^ f) p.low.toInt with hbelow | hlow
    · rw [pidReclamp_below rfl hki hhigh hbelow]
      have := term_near_bound (f := f) p.low.toInt (toInt_ne_zero hki) hslack
      omega
    · rw [pidReclamp_within rfl hhigh hlow]
      omega

/-- Settles O44. -/
theorem antiWindupBoundsTheIntegralTerm : Obligations.AntiWindupBoundsTheIntegralTerm := by
  intro s t slack reclamped term hki hle _ hslack hop hfits hterm
  have key : t.pid.ki = s.pid.ki ∧ t.pid.integral = wrap32 reclamped ∧
      ∃ i, reclamped = pidReclamp s.conf.fxFrac t.pid i := by
    obtain ⟨ht, hr⟩ | ⟨ht, hprev, hr⟩ := hop
    · cases ht
      exact ⟨rfl, congrArg wrap32 hr.symm, _, hr⟩
    · rcases lt_or_ge (s.cmd.a2 - s.pid.prevTs).toInt 0 with hneg | h0
      · exact absurd (ht.symm.trans (pidStep_backwards hprev hneg)) (by simp)
      · cases ht.symm.trans (pidStep_later hprev rfl h0 rfl (pidIntegral_eq _ _ _ _).symm)
        exact ⟨rfl, congrArg wrap32 hr.symm, _, hr⟩
  obtain ⟨hk, hint, i, hr⟩ := key
  rw [hterm, hint, wrap32_fits hfits, hr]
  exact reclamped_term_bounds (hk ▸ hki) hle (hk ▸ hslack)

end Sys2Proof.Machine
end

section
/-!
SUPPORT. LOOP_TICK, operation by operation (44_control_loop.md R211 to R214).
-/
namespace Sys2Proof.Machine

theorem loopSteps_succ {n : Nat} {s t : State} (h : loopStep s = .next t) : loopSteps (n + 1) s = loopSteps n t := by
  rw [loopSteps, h]

theorem loopSteps_refused {n : Nat} {s : State} {r : Refusal} (h : loopStep s = .refused r) :
    loopSteps (n + 1) s = .refused r := by
  rw [loopSteps, h]

/-! ### Step 1: the lock and the configuration -/

theorem exec_loopTick_free {s : State} (hst : s.run.stage = .idle) (hl : s.cfgLock = false) :
    exec .loopTick s = .next (lockAcquired s) := by
  change execLoopTick s = _
  rw [execLoopTick, if_neg (by simp [hst]), if_pos hl]

theorem exec_loopTick_skip {s : State} (hst : s.run.stage = .idle) (hl : s.cfgLock = true) (h0 : s.conf.tLock = 0) :
    exec .loopTick s = .next (skipConfig s) := by
  change execLoopTick s = _
  rw [execLoopTick, if_neg (by simp [hst]), if_neg (by simp [hl]), if_pos h0]

theorem exec_loopTick_wait {s : State} (hst : s.run.stage = .idle) (hl : s.cfgLock = true) (h0 : s.conf.tLock ≠ 0) :
    exec .loopTick s = .next { s with
      run.stage := .acquire, run.tLock := s.conf.tLock, run.freshLock := true } := by
  change execLoopTick s = _
  rw [execLoopTick, if_neg (by simp [hst]), if_neg (by simp [hl]), if_neg h0]

theorem lockExpires_held {s : State} (hst : s.run.stage = .acquire) (hl : s.cfgLock = true) :
    runInput .lockExpire s = .next (skipConfig s) := if_pos ⟨hst, hl⟩

theorem loopStep_acquire {s : State} (hst : s.run.stage = .acquire) (hl : s.cfgLock = false) :
    loopStep s = .next (lockAcquired s) := by
  simp only [loopStep, hst, hl, if_true]

theorem loopStep_read {s : State} (hst : s.run.stage = .read) :
    loopStep s = submitRead .loop s.conf.tRcv false { s with run.stage := .waiting } := by
  simp only [loopStep, hst]

/-- Settles O46. -/
theorem loopTickLoadsTheConfiguration : Obligations.LoopTickLoadsTheConfiguration := by
  refine ⟨fun s p hst hl hp => ⟨_, exec_loopTick_free hst hl, rfl, ?_⟩, fun s hst h => ⟨fun hb hd => ?_, fun hb => ?_⟩⟩
  · subst hp
    rw [hl]
    rfl
  · rw [loopStep_read hst]
    exact submitRead_accepted h hb hd
  · rw [loopStep_read hst]
    exact submitRead_held h hb

/-- Settles O47. -/
theorem heldLockSkipsTheUpdate : Obligations.HeldLockSkipsTheUpdate := fun _ =>
  ⟨fun hst hl h0 => ⟨_, exec_loopTick_wait hst hl h0, rfl, lockExpires_held rfl hl⟩, exec_loopTick_skip, loopStep_acquire,
    fun hst => if_pos hst⟩

/-! ### Step 2: the reading -/

theorem loopStep_waiting {s : State} (hst : s.run.stage = .waiting) (hs : s.run.served = some .loop)
    (hd : s.cli.done = true) :
    loopStep s = .next { takeCompletion s with run.stage := .record s.cli.err } := by
  simp only [loopStep, hst, hs, hd, and_self, if_true]

theorem loopStep_record {s : State} {st : Byte} (hst : s.run.stage = .record st) :
    loopStep s = .next { recordReading st s with run.stage := .compute st } := by
  simp only [loopStep, hst]

theorem recordReading_ok {s : State} : recordReading 0 s = { s with
    loop.lastTemperature := s.swd.temperature, loop.lastHumidity := s.swd.humidity, loop.haveReading := true } := rfl

theorem recordReading_error {s : State} {st : Byte} (h : st ≠ 0) :
    recordReading st s = { s with loop.errCount := s.loop.errCount + 1 } := if_neg h

/-- Settles O48. -/
theorem loopRetainsTheLastGoodReading : Obligations.LoopRetainsTheLastGoodReading := by
  refine ⟨fun s t h hst hs hd ht hh => ⟨fun hok => ?_, fun herr => ?_⟩, fun s hst hs hb hd => ?_⟩
  · subst ht hh
    rw [loopSteps_succ (loopStep_waiting hst hs hd), hok, loopSteps_succ (loopStep_record rfl), takeCompletion_eq]
    simp only [hok, if_true]
    rfl
  · rw [loopSteps_succ (loopStep_waiting hst hs hd), loopSteps_succ (loopStep_record rfl), recordReading_error herr,
      takeCompletion_eq]
    simp only [if_neg herr]
    rfl
  · refine ⟨_, exec_swdDeadline_served hb hd, ?_⟩
    have hstage : (cancelServed s).run.stage = .record statusRcvTimeout := by
      rw [cancelServed_run, hs]
      rfl
    rw [loopStep_record hstage, recordReading_error (by decide)]
    rfl

/-! ### Step 3: PID and actuator -/

theorem loopStep_compute {s : State} {st : Byte} (hst : s.run.stage = .compute st) : loopStep s = loopCompute st s := by
  simp only [loopStep, hst]

theorem loopStep_finish {s : State} {st : Byte} (hst : s.run.stage = .finish st) :
    loopStep s = .next { s with cmd.status := st, run.stage := .idle } := by
  simp only [loopStep, hst]

theorem loopStep_set {s : State} {st : Byte} {out : Word} (hst : s.run.stage = .set st out) :
    loopStep s =
      andThen (fun t => { t with run.stage := .finish st }) (setLevel (loopLevel s.conf.fxFrac out) s) := by
  simp only [loopStep, hst]

/-- Settles O50. -/
theorem manualModeLeavesPidAndActuator : Obligations.ManualModeLeavesPidAndActuator := by
  intro s st hst hidle
  have hskip : loopCompute st s = .next { s with run.stage := .finish st } := by
    refine if_neg fun hrun => ?_
    obtain hm | hr := hidle
    · exact absurd (hm.symm.trans hrun.1) (by decide)
    · exact absurd (hr.symm.trans hrun.2) (by decide)
  rw [loopSteps_succ ((loopStep_compute hst).trans hskip), loopSteps_succ (loopStep_finish rfl)]
  rfl

/-- PCA_SET on an initialised actuator in one form: only these five registers are written (R165). -/
theorem setLevel_initialised {s : State} (hi : s.pca.irqEn = true) (v : Word) :
    ∃ (entry : Word) (width : Half) (bypass : Bool),
      setLevel v s = .next { s with
        pca.level := v, pca.phaseEntry := entry, pca.width := width, pca.bypass := bypass, cmd.status := 0 } ∧
      bypass = decide (0 < v.toInt ∧ (s.conf.pcaMax : Int) ≤ v.toInt) ∧
      (0 < v.toInt ∧ v.toInt < (s.conf.pcaMax : Int) →
        width = s.conf.pcaPulseW ∧ entry = s.pca.table[v.toNat]?.getD 0) ∧
      (¬ (0 < v.toInt ∧ v.toInt < (s.conf.pcaMax : Int)) → width = 0 ∧ entry = s.pca.phaseEntry) := by
  rcases le_or_gt v.toInt 0 with hoff | hpos
  · refine ⟨_, _, _, setLevel_off hi hoff, ?_, fun h => ?_, fun _ => ⟨rfl, rfl⟩⟩
    · exact (decide_eq_false (by omega)).symm
    · omega
  rcases le_or_gt (s.conf.pcaMax : Int) v.toInt with hon | hin
  · refine ⟨_, _, _, setLevel_on hi hpos hon, ?_, fun h => ?_, fun _ => ⟨rfl, rfl⟩⟩
    · exact (decide_eq_true ⟨hpos, hon⟩).symm
    · omega
  · refine ⟨_, _, _, setLevel_interior hi hpos hin, ?_, fun _ => ⟨rfl, rfl⟩, fun h => absurd ⟨hpos, hin⟩ h⟩
    exact (decide_eq_false (by omega)).symm

theorem loopLevel_toInt (f : Nat) (out : Word) : (loopLevel f out).toInt = asr out.toInt f :=
  wrap32_fits (asr_fits32 out f)

/-- A PID call reads the parameters and the PID state only, and an allowed one answers. -/
theorem pidStep_answers {input sp ts : Word} {c : Config} {p : Pid}
    (h : p.hasPrev = false ∨ 0 ≤ (ts - p.prevTs).toInt) :
    ∃ r i, (∀ s : State, s.conf = c → s.pid = p → pidStep input sp ts s = .next (computed input sp ts r i s)) ∧
      (p.hasPrev = false → i = p.integral ∧ r = wrap32 (pidFirstOut c.fxFrac p (sp.toInt - input.toInt))) := by
  cases hp : p.hasPrev with
  | false =>
    refine ⟨_, _, fun s hc hs => ?_, fun _ => ⟨rfl, rfl⟩⟩
    subst hc hs
    exact pidStep_first hp
  | true =>
    have h0 : 0 ≤ (ts - p.prevTs).toInt := h.resolve_left (by simp [hp])
    let i := pidIntegral c.fxFrac p (sp.toInt - input.toInt) (ts - p.prevTs).toInt
    refine ⟨wrap32 (pidLaterOut c.fxFrac p (sp.toInt - input.toInt) (ts - p.prevTs).toInt i), i, fun s hc hs => ?_,
      nofun⟩
    subst hc hs
    exact pidStep_later hp rfl h0 rfl rfl

theorem loopInput_eq {s : State} {reading : Half}
    (h : s.conf.loopInputSel = .temperature ∧ reading = s.loop.lastTemperature ∨
      s.conf.loopInputSel = .humidity ∧ reading = s.loop.lastHumidity) :
    loopInput s = BitVec.ofInt 32 (Int.tdiv (reading.toInt * 2 ^ s.conf.fxFrac) 10) := by
  have hsel : loopTenths s = reading.toInt := by
    obtain ⟨hsel, rfl⟩ | ⟨hsel, rfl⟩ := h <;> simp only [loopTenths, hsel]
  simp [loopInput, hsel, wrap32, tdiv, shl]

theorem loopCompute_next {s : State} {st : Byte} {input sp r i : Word} (hm : s.loop.cfg.manual = false)
    (hr : s.loop.haveReading = true) (hin : loopInput s = input) (hsp : loopSetpoint s = sp)
    (h : pidStep input sp s.ext.now s = .next (computed input sp s.ext.now r i s)) :
    loopCompute st s = .next { computed input sp s.ext.now r i s with run.stage := .set st r } := by
  rw [loopCompute, if_pos ⟨hm, hr⟩, hin, hsp, h]
  rfl

theorem loopCompute_refused {s : State} {st : Byte} {r : Refusal} (hm : s.loop.cfg.manual = false)
    (hr : s.loop.haveReading = true) (h : pidStep (loopInput s) (loopSetpoint s) s.ext.now s = .refused r) :
    loopCompute st s = .refused r := by
  rw [loopCompute, if_pos ⟨hm, hr⟩, h]

/-- Settles O49: PID_COMPUTE, PCA_SET and the return, each by its own lemma. -/
theorem loopDrivesTheActuatorFromTheReading : Obligations.LoopDrivesTheActuatorFromTheReading := by
  intro s call st reading input sp e p hst hm hr hsel hinput hsp hcall he hp
  have hin : loopInput s = input := (loopInput_eq hsel).trans hinput.symm
  have hset : loopSetpoint s = sp := hsp.symm
  refine ⟨fun hprev hneg => ?_, fun hok => ?_⟩
  · have hcomp := loopCompute_refused (st := st) hm hr (pidStep_backwards hprev hneg)
    exact loopSteps_refused ((loopStep_compute hst).trans hcomp)
  obtain ⟨r, i, hstep, hfirst⟩ := pidStep_answers (input := input) (sp := sp) (c := s.conf) hok
  have hcomp := loopCompute_next (st := st) hm hr hin hset (hstep s rfl rfl)
  have hsteps : loopSteps 3 s = _ := loopSteps_succ ((loopStep_compute hst).trans hcomp)
  subst hcall he
  refine ⟨_, hstep _ rfl rfl, fun hprev => ?_, fun hi => ?_, fun hi => ?_⟩
  · obtain ⟨rfl, rfl⟩ := hfirst hprev
    exact ⟨rfl, pidFirstOut_toInt hp⟩
  · refine hsteps.trans (loopSteps_refused ((loopStep_set rfl).trans ?_))
    rw [setLevel_uninitialised (by exact hi)]
    rfl
  · obtain ⟨entry, width, bypass, hlevel, hbypass, hinterior, hedge⟩ :=
      setLevel_initialised (s := { computed input sp s.ext.now r i s with run.stage := .set st r }) hi
        (loopLevel s.conf.fxFrac r)
    have hset := hsteps.trans (loopSteps_succ ((loopStep_set rfl).trans (congrArg (andThen _) hlevel)))
    refine ⟨loopLevel s.conf.fxFrac r, entry, width, bypass, ?_, ?_, ?_, hbypass, hinterior, hedge⟩
    · exact hset.trans (loopSteps_succ (loopStep_finish rfl))
    · rw [loopLevel_toInt]
      exact asr_le _ _
    · rw [loopLevel_toInt]
      exact lt_asr _ _

end Sys2Proof.Machine
end

section
/-!
SUPPORT. Runs of a counter over several ticks (41_sensor_decoder.md R148; 42_phase_actuator.md R175, R176): each lemma says
where the counter stands after `n` of them.
-/
namespace Sys2Proof.Machine

theorem repeatOp_succ (f : State → State) (n : Nat) (s : State) : repeatOp f (n + 1) s = f (repeatOp f n s) := by
  induction n generalizing s with
  | zero => rfl
  | succ n ih => exact ih (f s)

theorem ofNat_succ (n : Nat) : (BitVec.ofNat 16 n : Half) + 1 = BitVec.ofNat 16 (n + 1) := (BitVec.ofNat_add n 1).symm

theorem ofNat_toNat_of_le {n : Nat} {w : Half} (h : n ≤ w.toNat) : (BitVec.ofNat 16 n).toNat = n := by
  rw [BitVec.toNat_ofNat]
  exact Nat.mod_eq_of_lt (h.trans_lt w.isLt)

theorem ofNat_ne_of_lt {n : Nat} {w : Half} (h : n < w.toNat) : BitVec.ofNat 16 n ≠ w := by
  rintro rfl
  rw [BitVec.toNat_ofNat] at h
  exact absurd (Nat.mod_le n (2 ^ 16)) (Nat.not_le.mpr h)

/-! ### The capture unit -/

/-- Ticks without an edge, the timeout not reached. -/
theorem repeatOp_captureUnit {line : Bool} {s : State} {m n : Nat} (hi : s.swd.irqEn = true) (hp : s.cap.prev = line)
    (hc : s.cap.cnt = BitVec.ofNat 16 m) (hn : m + n < s.conf.tCapto.toNat) :
    repeatOp (captureUnit line) n s = { s with cap.cnt := BitVec.ofNat 16 (m + n) } := by
  induction n with
  | zero => rw [Nat.add_zero, ← hc]; rfl
  | succ n ih =>
    rw [repeatOp_succ, ih (by omega), ← Nat.add_assoc, ← ofNat_succ]
    exact captureUnit_quiet hi hp (by rw [ofNat_succ]; exact ofNat_ne_of_lt hn)

/-- From a falling edge: the low ticks, the rising edge and the high ticks up to the next falling edge. -/
theorem captureUnit_lowThenHigh {s : State} {a b : Nat} (hi : s.swd.irqEn = true) (hc : s.cap.cnt = 0)
    (hp : s.cap.prev = false) (hab : a + 1 + (b + 1) ≤ s.conf.tCapto.toNat) :
    repeatOp (captureUnit true) (b + 1) (repeatOp (captureUnit false) a s) = { s with
      cap.cnt := BitVec.ofNat 16 (a + 1 + b), cap.lowLatch := BitVec.ofNat 16 (a + 1), cap.prev := true } := by
  have low := repeatOp_captureUnit (m := 0) (n := a) hi hp hc (by omega)
  rw [Nat.zero_add] at low
  have rise : captureUnit true { s with cap.cnt := BitVec.ofNat 16 a } = { s with
      cap.cnt := BitVec.ofNat 16 (a + 1), cap.lowLatch := BitVec.ofNat 16 (a + 1), cap.prev := true } := by
    rw [← ofNat_succ]
    exact captureUnit_rise hi hp (by rw [ofNat_succ]; exact ofNat_ne_of_lt (w := s.conf.tCapto) (by omega))
  have hhigh : a + 1 + b < s.conf.tCapto.toNat := by omega
  rw [low, repeatOp, rise]
  exact repeatOp_captureUnit hi rfl rfl hhigh

/-- The falling edge that ends the interval fires the sample. -/
theorem captureUnit_fires {s t : State} {a n : Nat} (hi : s.swd.irqEn = true) (hf : s.cap.first = false)
    (hn : n + 1 ≤ s.conf.tCapto.toNat) (ha : a ≤ n)
    (ht : t = captureUnit false { s with
      cap.cnt := BitVec.ofNat 16 n, cap.lowLatch := BitVec.ofNat 16 a, cap.prev := true }) :
    t.swd.sig = true ∧ (samplePeriod t.swd.sample).toNat = n + 1 ∧ (sampleSecond t.swd.sample).toNat = a ∧
      t.cap.cnt = 0 := by
  have hcapto : s.conf.tCapto ≠ 0 := by
    rintro h0
    simp [h0] at hn
  obtain rfl := ht.trans (captureUnit_fall hi rfl hf hcapto)
  refine ⟨rfl, ?_, ?_, rfl⟩
  · rw [samplePeriod_packSample, ofNat_succ]
    exact ofNat_toNat_of_le hn
  · rw [sampleSecond_packSample]
    exact ofNat_toNat_of_le (w := s.conf.tCapto) (by omega)

/-- Settles O51. -/
theorem captureMeasuresLowAndPeriod : Obligations.CaptureMeasuresLowAndPeriod := by
  refine ⟨fun s hi hf hp h0 => captureUnit_first hi hp hf h0, fun s a b hi hf hc hp ha hb hab => ?_,
    fun s n hi hc hp hn hpos => ?_⟩
  · obtain ⟨a, rfl⟩ : ∃ a', a = a' + 1 := ⟨a - 1, by omega⟩
    obtain ⟨b, rfl⟩ : ∃ b', b = b' + 1 := ⟨b - 1, by omega⟩
    rw [Nat.add_sub_cancel, captureUnit_lowThenHigh hi hc hp hab]
    exact ⟨rfl, _, rfl, captureUnit_fires (n := a + 1 + b) hi hf hab (by omega) rfl⟩
  · have quiet : ∀ k, k < n → repeatOp (captureUnit true) k s = { s with cap.cnt := BitVec.ofNat 16 k } := by
      intro k hk
      have h := repeatOp_captureUnit (m := 0) (n := k) hi hp hc (by omega)
      rwa [Nat.zero_add] at h
    obtain ⟨n, rfl⟩ : ∃ n', n = n' + 1 := ⟨n - 1, by omega⟩
    have hcapto : BitVec.ofNat 16 n + 1 = s.conf.tCapto := by
      rw [ofNat_succ, hn]
      exact BitVec.ofNat_toNat _ _ |>.trans (BitVec.setWidth_eq _)
    have hfire : captureUnit true { s with cap.cnt := BitVec.ofNat 16 n } = _ := captureUnit_timeout hi hp hcapto
    refine ⟨fun k hk => by rw [quiet k hk], ?_⟩
    rw [repeatOp_succ, quiet n (by omega), hfire]
    exact ⟨rfl, rfl⟩

/-! ### Counter A -/

/-- Ticks without an edge. -/
theorem repeatOp_counterA {zc : Bool} {s : State} {m : Nat} (n : Nat) (hi : s.pca.irqEn = true) (hp : s.pca.aPrev = zc)
    (hc : s.pca.aCnt = BitVec.ofNat 16 m) :
    repeatOp (counterA zc) n s = { s with pca.aCnt := BitVec.ofNat 16 (m + n) } := by
  induction n with
  | zero => rw [Nat.add_zero, ← hc]; rfl
  | succ n ih =>
    rw [repeatOp_succ, ih, ← Nat.add_assoc, ← ofNat_succ]
    exact counterA_quiet hi hp

/-- From a rising edge: the high ticks, the falling edge and the low ticks up to the next rising edge. -/
theorem counterA_highThenLow {s : State} (a b : Nat) (hi : s.pca.irqEn = true) (hc : s.pca.aCnt = 0)
    (hp : s.pca.aPrev = true) :
    repeatOp (counterA false) (b + 1) (repeatOp (counterA true) a s) = { s with
      pca.aCnt := BitVec.ofNat 16 (a + 1 + b), pca.aHigh := BitVec.ofNat 16 (a + 1), pca.aPrev := false } := by
  have high := repeatOp_counterA (m := 0) a hi hp hc
  rw [Nat.zero_add] at high
  have fall : counterA false { s with pca.aCnt := BitVec.ofNat 16 a } = { s with
      pca.aHigh := BitVec.ofNat 16 (a + 1), pca.aCnt := BitVec.ofNat 16 (a + 1), pca.aPrev := false } := by
    rw [← ofNat_succ]
    exact counterA_fall hi hp
  rw [high, repeatOp, fall]
  exact repeatOp_counterA b hi rfl rfl

/-! ### Counters B and C -/

theorem countersBC_counts {s : State} (hb : s.pca.bRun = true) (hne : s.pca.bCnt ≠ s.pca.bLoad) :
    (countersBC s).pca.bRun = true ∧ (countersBC s).pca.bCnt = s.pca.bCnt + 1 ∧
      (countersBC s).pca.bLoad = s.pca.bLoad := by
  obtain ⟨hrun, hcnt, hload⟩ := countC_bPart { s with pca.bCnt := s.pca.bCnt + 1 }
  rw [countersBC, if_pos hb, if_neg hne]
  exact ⟨hrun.trans hb, hcnt, hload⟩

/-- Counter B up to its load. -/
theorem repeatOp_counterB {s : State} {n : Nat} (hb : s.pca.bRun = true) (hc : s.pca.bCnt = 0)
    (hn : n ≤ s.pca.bLoad.toNat) {t : State} (ht : t = repeatOp countersBC n s) :
    t.pca.bRun = true ∧ t.pca.bCnt = BitVec.ofNat 16 n ∧ t.pca.bLoad = s.pca.bLoad := by
  induction n generalizing t with
  | zero => subst ht; exact ⟨hb, hc, rfl⟩
  | succ n ih =>
    obtain ⟨hrun, hcnt, hload⟩ := ih (by omega) rfl
    have hne : (repeatOp countersBC n s).pca.bCnt ≠ (repeatOp countersBC n s).pca.bLoad := by
      rw [hcnt, hload]
      exact ofNat_ne_of_lt (by omega)
    obtain ⟨hrun', hcnt', hload'⟩ := countersBC_counts hrun hne
    subst ht
    rw [repeatOp_succ]
    exact ⟨hrun', by rw [hcnt', hcnt, ofNat_succ], hload'.trans hload⟩

theorem countersBC_stoppedB {s : State} (hb : s.pca.bRun = false) : countersBC s = countC s := if_neg (by simp [hb])

/-- Counter C alone, up to its reload. -/
theorem repeatOp_counterC {s : State} {n : Nat} (hb : s.pca.bRun = false) (hr : s.pca.cRun = true) (hc : s.pca.cCnt = 0)
    (hn : n ≤ s.pca.cReload.toNat) : repeatOp countersBC n s = { s with pca.cCnt := BitVec.ofNat 16 n } := by
  induction n with
  | zero =>
    rw [show BitVec.ofNat 16 0 = s.pca.cCnt from hc.symm]
    rfl
  | succ n ih =>
    rw [repeatOp_succ, ih (by omega), ← ofNat_succ]
    exact (countersBC_stoppedB (s := { s with pca.cCnt := BitVec.ofNat 16 n }) hb).trans
      (countC_counts (s := { s with pca.cCnt := BitVec.ofNat 16 n }) hr (ofNat_ne_of_lt hn))

theorem countC_reloads {s : State} (hr : s.pca.cRun = true) (hc : s.pca.cCnt = s.pca.cReload) : countC s = cReload s := by
  rw [countC, if_pos hr, if_pos hc]

theorem ofNat_eq_of_toNat {n : Nat} {w : Half} (h : n = w.toNat) : BitVec.ofNat 16 n = w := by
  subst h
  exact (BitVec.ofNat_toNat 16 w).trans (BitVec.setWidth_eq w)

/-- Settles O52. -/
theorem countersFireOnTheirTick : Obligations.CountersFireOnTheirTick := by
  refine ⟨fun s hi hf hp => counterA_first hi hp hf, fun s mid a b hi hf hc hp ha hb hab hmid => ?_,
    fun s n => ⟨fun hb hc => ⟨fun hn => ?_, fun hn => ?_⟩, fun hb hr hc hby => ⟨fun hn => ?_, fun hn => ?_⟩⟩⟩
  · obtain ⟨a, rfl⟩ : ∃ a', a = a' + 1 := ⟨a - 1, by omega⟩
    obtain ⟨b, rfl⟩ : ∃ b', b = b' + 1 := ⟨b - 1, by omega⟩
    rw [Nat.add_sub_cancel, counterA_highThenLow a b hi hc hp] at hmid
    subst hmid
    refine ⟨rfl, _, exec_pcaIrqZc_enabled (by exact hi) _ _, ?_⟩
    refine counterA_rise hi rfl hf ?_
    rw [ofNat_succ]
    rfl
  · obtain ⟨hrun, hcnt, _⟩ := repeatOp_counterB hb hc hn rfl
    exact ⟨hrun, hcnt ▸ ofNat_toNat_of_le hn⟩
  · subst hn
    obtain ⟨hrun, hcnt, hload⟩ := repeatOp_counterB hb hc le_rfl rfl
    have hat := countersBC_bAtLoad hrun (by rw [hcnt, hload]; exact ofNat_eq_of_toNat rfl)
    rw [repeatOp_succ, hat]
    exact ⟨rfl, rfl, rfl⟩
  · rw [repeatOp_counterC hb hr hc hn]
    have hcnt : (BitVec.ofNat 16 n).toNat = n := ofNat_toNat_of_le hn
    refine ⟨hcnt, ?_⟩
    simp [pcaDrive, hby, hr, hcnt]
  · subst hn
    have hlast := countC_reloads (s := { s with pca.cCnt := s.pca.cReload }) hr rfl
    rw [repeatOp_succ, repeatOp_counterC hb hr hc le_rfl, ofNat_eq_of_toNat rfl, countersBC_stoppedB (by exact hb), hlast]
    rfl

end Sys2Proof.Machine
end

section
/-!
SUPPORT. The start pulse at Level T (41_sensor_decoder.md R135, R147, R151): what a tick does while it lasts, and on its last
tick.
-/
namespace Sys2Proof.Machine

/-- In the start pulse, both timers counting from this tick on. -/
structure InPulse (s : State) : Prop where
  phase : s.swd.phase = .startPulse
  irqEn : s.swd.irqEn = false
  freshStart : s.run.freshStart = false
  freshRcv : s.run.freshRcv = false
  tWait : s.swd.tWait = 0

theorem readTimer_fresh (due : Bool) (s : State) : (readTimer due s).run.freshStart = s.run.freshStart ∧
    (readTimer due s).run.freshRcv = s.run.freshRcv := by
  rw [readTimer_run]
  exact ⟨rfl, rfl⟩

theorem lockTimer_fresh (due : Bool) (s : State) : (lockTimer due s).run.freshStart = s.run.freshStart ∧
    (lockTimer due s).run.freshRcv = s.run.freshRcv := by
  rw [lockTimer_run]
  exact ⟨rfl, rfl⟩

theorem foldl_cancelHeld_fresh (hs rest : List Held) (s : State) :
    let t := hs.foldl (fun t h => cancelHeld h rest t) s
    t.run.freshStart = s.run.freshStart ∧ t.run.freshRcv = s.run.freshRcv := by
  induction hs generalizing s with
  | nil => exact ⟨rfl, rfl⟩
  | cons h hs ih => exact ih (cancelHeld h rest s)

/-- What the decoder sees of the middle of a tick: nothing. -/
structure DecoderSame (s t : State) : Prop where
  swd : t.swd = s.swd
  cap : t.cap = s.cap
  freshStart : t.run.freshStart = s.run.freshStart
  freshRcv : t.run.freshRcv = s.run.freshRcv

theorem tickMiddle_decoder (due due' : Bool) (s : State) :
    DecoderSame s (heldTimers (lockTimer due' (readTimer due (countersBC s)))) where
  swd := by simp
  cap := by simp
  freshStart := by
    refine (foldl_cancelHeld_fresh _ _ _).1.trans ?_
    rw [(lockTimer_fresh _ _).1, (readTimer_fresh _ _).1, countersBC_run]
  freshRcv := by
    refine (foldl_cancelHeld_fresh _ _ _).2.trans ?_
    rw [(lockTimer_fresh _ _).2, (readTimer_fresh _ _).2, countersBC_run]

/-- What the decoder sees of the pins' part of a tick while its interrupts are off: the level of the pin. -/
theorem tickPins_decoder {low zc : Bool} {s a : State} (hi : s.swd.irqEn = false)
    (ha : a = counterA zc (captureUnit (linePin low (hostTurn zc s)) (hostTurn zc s))) :
    a.swd = s.swd ∧ a.run.freshStart = s.run.freshStart ∧ a.run.freshRcv = s.run.freshRcv ∧ a.conf = s.conf := by
  subst ha
  simp [captureUnit, hi]

theorem countDown_running {n : Nat} {t : BitVec n} (h : t ≠ 0) : countDown false t = t - 1 :=
  if_neg (by simpa using h)

theorem ne_of_one_lt {n : Nat} {t : BitVec n} (h : 1 < t.toNat) : t ≠ 0 ∧ expiresNow false t = false := by
  refine ⟨?_, ?_⟩
  · rintro rfl
    simp at h
  · have hne : t ≠ 1 := by
      rintro rfl
      exact absurd (Nat.mod_le 1 (2 ^ n)) (Nat.not_le.mpr (by simpa using h))
    simpa [expiresNow] using hne

/-- The tick as the decoder sees it in the start pulse, the deadline not reached. -/
theorem tick_inPulse_eq {s : State} (h : InPulse s) (hr : 1 < s.swd.tRcv.toNat) (low zc consume : Bool) :
    ∃ a m, a.conf = s.conf ∧ a.run.freshStart = false ∧ a.run.freshRcv = false ∧
      a.swd = { s.swd with tStart := countDown false s.swd.tStart, tRcv := s.swd.tRcv - 1 } ∧
      DecoderSame (startTimer (expiresNow false s.swd.tStart) a) m ∧
      tick low zc consume s = sequencerTurn consume m := by
  obtain ⟨a, ha⟩ : ∃ a, a = counterA zc (captureUnit (linePin low (hostTurn zc s)) (hostTurn zc s)) := ⟨_, rfl⟩
  obtain ⟨hswd, hstart, hrcv, hconf⟩ := tickPins_decoder h.irqEn ha
  rw [h.freshStart] at hstart
  rw [h.freshRcv] at hrcv
  obtain ⟨hr0, hdue⟩ := ne_of_one_lt hr
  refine ⟨countTimers a, _, hconf, rfl, rfl, ?_, tickMiddle_decoder (expiresNow a.run.freshRead a.pca.tRead)
    (lockExpiresNow a.run.freshLock a.run.tLock) _, ?_⟩
  · have hw : countDown false s.swd.tWait = s.swd.tWait := by rw [h.tWait]; rfl
    rw [countTimers_swd, hswd, hstart, hrcv, hw, countDown_running hr0]
  · unfold tick
    dsimp only
    rw [← ha, hswd, hstart, hrcv, h.tWait, hdue, deadlineTimer_false]
    rw [show expiresNow false (0 : Half) = false from rfl, waitTimer_false]

theorem tick_inPulse {s t : State} (h : InPulse s) (hs : 1 < s.swd.tStart.toNat) (hr : 1 < s.swd.tRcv.toNat)
    {low zc consume : Bool} (ht : t = tick low zc consume s) :
    InPulse t ∧ t.swd = { s.swd with tStart := s.swd.tStart - 1, tRcv := s.swd.tRcv - 1 } := by
  obtain ⟨a, m, _, hstart, hrcv, hswd, hm, heq⟩ := tick_inPulse_eq h hr low zc consume
  obtain ⟨hs0, hdue⟩ := ne_of_one_lt hs
  rw [hdue, startTimer_false] at hm
  rw [countDown_running hs0] at hswd
  have hmswd := hm.swd.trans hswd
  have hphase : m.swd.phase = .startPulse := by rw [hmswd]; exact h.phase
  rw [sequencerTurn_quiet _ (by simp [Waiting, hphase])] at heq
  obtain rfl : t = m := ht.trans heq
  refine ⟨⟨hphase, ?_, hm.freshStart.trans hstart, hm.freshRcv.trans hrcv, ?_⟩, hmswd⟩
  · rw [hmswd]
    exact h.irqEn
  · rw [hmswd]
    exact h.tWait

/-- The last tick of the pulse. -/
theorem tick_pulseEnds {s t : State} (h : InPulse s) (hs : s.swd.tStart.toNat = 1) (hr : 1 < s.swd.tRcv.toNat)
    {low zc consume : Bool} (ht : t = tick low zc consume s) :
    t.swd.phase = .waitStart ∧ t.swd.lineDrive = false ∧ t.swd.irqEn = true ∧ t.swd.tWait = s.conf.tWait ∧
      t.cap.first = true ∧ t.cap.cnt = 0 := by
  obtain ⟨a, m, hconf, _, _, hswd, hm, heq⟩ := tick_inPulse_eq h hr low zc consume
  have hone : s.swd.tStart = 1 := BitVec.eq_of_toNat_eq hs
  have hphase : a.swd.phase = .startPulse := by rw [hswd]; exact h.phase
  have hdone : startTimer (expiresNow false s.swd.tStart) a = startDone a := by
    rw [hone]
    exact if_pos ⟨rfl, hphase⟩
  rw [hdone] at hm
  have hsig : m.swd.sig = false := by rw [hm.swd]; rfl
  rw [sequencerTurn_quiet _ (by simp [hsig])] at heq
  obtain rfl : t = m := ht.trans heq
  rw [hm.swd, hm.cap, ← hconf]
  exact ⟨rfl, rfl, rfl, rfl, rfl, rfl⟩

theorem toNat_sub_one {n : Nat} {t : BitVec n} (h : 1 < t.toNat) : (t - 1).toNat = t.toNat - 1 := by
  have hone : (1 : BitVec n).toNat = 1 := Nat.mod_eq_of_lt (h.trans t.isLt)
  rw [BitVec.toNat_sub_of_le (by rw [BitVec.le_def, hone]; omega), hone]

theorem sub_one_sub_ofNat {n : Nat} (t : BitVec n) (k : Nat) :
    t - 1 - BitVec.ofNat n k = t - BitVec.ofNat n (k + 1) := by
  rw [BitVec.ofNat_add, BitVec.add_comm]
  exact sub_sub t 1 (BitVec.ofNat n k)

/-- One tick of the pulse that is not its last: both timers have counted down by one. -/
theorem tick_inPulse_toNat {s : State} (h : InPulse s) (hs : 1 < s.swd.tStart.toNat)
    (hr : s.swd.tStart.toNat < s.swd.tRcv.toNat) (p : Bool × Bool × Bool) {t : State}
    (ht : t = tick p.1 p.2.1 p.2.2 s) :
    InPulse t ∧ t.swd.tStart.toNat = s.swd.tStart.toNat - 1 ∧ t.swd.tRcv.toNat = s.swd.tRcv.toNat - 1 := by
  obtain ⟨hp, hswd⟩ := tick_inPulse h hs (hs.trans hr) ht
  rw [hswd]
  exact ⟨hp, toNat_sub_one hs, toNat_sub_one (hs.trans hr)⟩

theorem ticks_inPulse (ps : List (Bool × Bool × Bool)) {s : State} (h : InPulse s)
    (hlen : ps.length < s.swd.tStart.toNat) (hr : s.swd.tStart.toNat < s.swd.tRcv.toNat) :
    (ticks ps s).swd = { s.swd with
      tStart := s.swd.tStart - BitVec.ofNat 16 ps.length, tRcv := s.swd.tRcv - BitVec.ofNat 32 ps.length } := by
  induction ps generalizing s with
  | nil => simp [ticks]
  | cons p ps ih =>
    rw [List.length_cons] at hlen
    obtain ⟨hp, hstart, hrcv⟩ := tick_inPulse_toNat h (by omega) hr p rfl
    have hswd := (tick_inPulse h (by omega) (by omega) (rfl : _ = tick p.1 p.2.1 p.2.2 s)).2
    rw [ticks, ih hp (by omega) (by omega), hswd, List.length_cons, ← sub_one_sub_ofNat, ← sub_one_sub_ofNat]

/-- As many ticks as the start timer holds: those before the last stay in the pulse, and the last ends it. -/
theorem ticks_pulseEnds (ps : List (Bool × Bool × Bool)) {s t : State} (h : InPulse s) (hpos : 0 < ps.length)
    (hlen : ps.length = s.swd.tStart.toNat) (hr : s.swd.tStart.toNat < s.swd.tRcv.toNat) (ht : t = ticks ps s) :
    t.swd.phase = .waitStart ∧ t.swd.lineDrive = false ∧ t.swd.irqEn = true ∧ t.swd.tWait = s.conf.tWait ∧
      t.cap.first = true ∧ t.cap.cnt = 0 := by
  induction ps generalizing s with
  | nil => exact absurd hpos (Nat.lt_irrefl 0)
  | cons p ps ih =>
    rw [List.length_cons] at hlen
    cases ps with
    | nil =>
      rw [List.length_nil] at hlen
      exact tick_pulseEnds h hlen.symm (by omega) ht
    | cons q ps =>
      rw [List.length_cons] at hlen
      obtain ⟨hp, hstart, hrcv⟩ := tick_inPulse_toNat h (by omega) hr p rfl
      rw [← tick_conf p.1 p.2.1 p.2.2 s]
      exact ih hp (Nat.succ_pos _) (by rw [List.length_cons]; omega) (by omega) ht

/-- Settles O53: the decoder sees a tick of the pulse as its two timers counting down, until the start timer runs out. -/
theorem startPulseLastsItsTimer : Obligations.StartPulseLastsItsTimer := by
  intro s ps hphase _ hirq hstart hrcv hwait hpos _ hr
  have h : InPulse s := ⟨hphase, hirq, hstart, hrcv, hwait⟩
  exact ⟨fun hlt => ticks_inPulse ps h hlt hr, fun heq => ticks_pulseEnds ps h hpos heq hr rfl⟩

end Sys2Proof.Machine
end

section
/-!
SUPPORT. The step: what it runs (30_encoding.md R95 to R98), what each input leaves unchanged (10_state.md R30, R38), and
what an error does not do (60_exceptions.md R225).
-/
namespace Sys2Proof.Machine

/-- Settles O3: a code that decodes is an instruction's word (O1), so this one does not. -/
theorem unknownOpSetsBadOp : Obligations.UnknownOpSetsBadOp := by
  intro s op hne
  change issueCommand op s = _
  unfold issueCommand
  cases h : decode (.command op) with
  | ok i => exact absurd (eq_encode_of_decode h).symm (hne i)
  | error e => rfl

theorem issueCommand_ok {s : State} {op : Byte} {i : Instr} (h : decode (.command op) = .ok i) :
    issueCommand op s = exec i { s with cmd.op := op } := by
  simp only [issueCommand, h]

theorem raiseEvent_ok {s : State} {code : Byte} {payload : Word} {i : Instr}
    (h : decode (.event code payload) = .ok i) : raiseEvent code payload s = exec i (beforeEvent i s) := by
  simp only [raiseEvent, h]

theorem step_cons {s : State} {x : Input} {rest : List Input} (h : s.trace = x :: rest) :
    step s = andThen settle (runInput x { s with trace := rest }) := by
  rw [step, h]
  rfl

/-- Settles O4: before a crossing runs what the host's own completion would have done (`pcaCompletes_readDue`). -/
theorem stepRunsDecodedInstruction : Obligations.StepRunsDecodedInstruction := by
  refine ⟨fun s op rest i htr hd => ?_, fun s code payload rest i htr hd hidle => ?_,
    fun s t code payload rest p q htr hd ht => ?_⟩
  · rw [step_cons htr]
    exact congrArg _ (issueCommand_ok hd)
  · rw [step_cons htr]
    refine congrArg _ ((raiseEvent_ok hd).trans (congrArg (exec i) (beforeEvent_eq ?_)))
    exact hidle
  · rw [step_cons htr]
    refine congrArg _ ((raiseEvent_ok hd).trans ?_)
    rw [pcaCompletes_readDue ht]
    rfl

/-! ### What an input leaves unchanged -/

theorem command_ne {op : Byte} {i j : Instr} (h : decode (.command op) = .ok i) (hj : encode j ≠ .command op) : i ≠ j := by
  rintro rfl
  exact hj (eq_encode_of_decode h).symm

theorem event_ne {code : Byte} {payload : Word} {i j : Instr} (h : decode (.event code payload) = .ok i)
    (hj : encode j ≠ .event code payload) : i ≠ j := by
  rintro rfl
  exact hj (eq_encode_of_decode h).symm

theorem beforeEvent_command (i : Instr) (s : State) : CommandSame s (beforeEvent i s) :=
  beforeEvent_ind (P := CommandSame s) i (.of_pca rfl) (readDue_command s)

theorem runInput_command {x : Input} {s : State} (hx : ¬ CommandsActuator x s) :
    IfNext (CommandSame s) (runInput x s) := by
  cases x with
  | writeA0 | writeA1 | writeA2 | writeStr | lockGive | extCfg | extIsDay | extNow => exact .of_pca rfl
  | issue op =>
    refine (issueCommand_ifNext op).mpr ⟨fun i hi => ?_, fun _ _ => .of_pca rfl⟩
    have hset : i ≠ .pcaSet := command_ne hi fun h => hx (.inl (by cases h; rfl))
    have hinit : i ≠ .pcaInit := command_ne hi fun h => hx (.inr (.inl (by cases h; rfl)))
    exact (exec_command hset hinit _).mono fun t ht => ht.after rfl
  | event code payload =>
    refine (raiseEvent_ifNext code payload).mpr fun i hi => ?_
    refine (exec_command (event_ne hi nofun) (event_ne hi nofun) _).mono fun t ht => ?_
    exact (beforeEvent_command i s).trans ht
  | tick low zc consume => exact tick_command low zc consume s
  | swdReturn => exact hostCompletes_ifNext.mpr fun _ _ => .of_pca (by simp)
  | pcaReturn => exact pcaCompletes_ifNext.mpr fun hb hs => readDue_due hb hs ▸ readDue_command s
  | loopStep =>
    have hstage : ∀ st out, s.run.stage ≠ .set st out := fun st out h => hx (.inr (.inr ⟨rfl, st, out, h⟩))
    exact (loopStep_pca_frame hstage).mono fun t ht => .of_pca ht.1
  | lockExpire => exact lockExpires_ifNext.mpr fun _ _ => .of_pca rfl
  | heldExpire k => exact (heldDeadline_ifNext k).mpr fun _ _ => .of_pca rfl
  | lockTake => exact lockTaken_ifNext.mpr fun _ => .of_pca rfl

theorem CommandSame.mode {s t : State} (h : CommandSame s t) : pcaMode t = pcaMode s := by
  rw [pcaMode, pcaMode, h.bypass, h.width]

theorem pcaDrive_of_off {s : State} (h : pcaMode s = .off) : pcaDrive s = false := by
  unfold pcaMode at h
  split_ifs at h with hb hw
  simp [pcaDrive, hb, hw]

theorem pcaDrive_of_on {s : State} (h : pcaMode s = .on) : pcaDrive s = true := by
  unfold pcaMode at h
  split_ifs at h with hb
  simp [pcaDrive, hb]

/-- Settles O37. -/
theorem onlySetCommandsTheActuator : Obligations.OnlySetCommandsTheActuator := by
  intro s t x rest htr hx ht
  have hrun := runInput_command (x := x) (s := { s with trace := rest }) hx
  have hstep : IfNext (CommandSame s) (andThen settle (runInput x { s with trace := rest })) :=
    (ifNext_andThen _ _).mpr (hrun.mono fun u hu => (hu.keep (settle_pca u)).after rfl)
  have h : CommandSame s t := hstep.of_eq ((step_cons htr).symm.trans ht)
  refine ⟨⟨h.level, h.entry, h.width, h.bypass⟩, fun hoff => ?_, fun hon => ?_⟩
  · have hmode := h.mode.trans hoff
    exact ⟨hmode, pcaDrive_of_off hmode⟩
  · have hmode := h.mode.trans hon
    exact ⟨hmode, pcaDrive_of_on hmode⟩

theorem loopStep_pid_frame {s : State} (hcoef : s.run.stage ≠ .coef) (hlimits : s.run.stage ≠ .limits)
    (hcompute : ∀ st, s.run.stage ≠ .compute st) : IfNext (fun t => t.pid = s.pid) (loopStep s) := by
  cases hst : s.run.stage with
  | coef => exact absurd hst hcoef
  | limits => exact absurd hst hlimits
  | compute st => exact absurd hst (hcompute st)
  | _ => simp [hst]

theorem beforeEvent_pid (i : Instr) (s : State) : (beforeEvent i s).pid = s.pid :=
  beforeEvent_ind (P := fun t => t.pid = s.pid) i rfl (readDue_pid s)

/-- A command of the PID unit is one of its three codes. -/
theorem unit_ne_pid_of_command {op : Byte} {i : Instr} {s : State} (hx : ¬ CommandsPid (.issue op) s)
    (h : decode (.command op) = .ok i) : i.unit ≠ .pid := by
  have hw := eq_encode_of_decode h
  intro hu
  cases i with
  | pidCompute => exact hx (.inl (by cases hw; rfl))
  | pidSetCoef => exact hx (.inr (.inl (by cases hw; rfl)))
  | pidSetLimits => exact hx (.inr (.inr (.inl (by cases hw; rfl))))
  | _ => cases hu

theorem unit_ne_pid_of_event {code : Byte} {payload : Word} {i : Instr} (h : decode (.event code payload) = .ok i) :
    i.unit ≠ .pid := by
  have hw := eq_encode_of_decode h
  intro hu
  cases i with
  | pidCompute | pidSetCoef | pidSetLimits => cases hw
  | _ => cases hu

theorem runInput_pid {x : Input} {s : State} (hx : ¬ CommandsPid x s) :
    IfNext (fun t => t.pid = s.pid) (runInput x s) := by
  cases x with
  | writeA0 | writeA1 | writeA2 | writeStr | lockGive | extCfg | extIsDay | extNow => rfl
  | issue op =>
    exact (issueCommand_ifNext op).mpr ⟨fun i hi => exec_pid_frame (unit_ne_pid_of_command hx hi) _, fun _ _ => rfl⟩
  | event code payload =>
    refine (raiseEvent_ifNext code payload).mpr fun i hi => ?_
    exact (exec_pid_frame (unit_ne_pid_of_event hi) _).mono fun t ht => ht.trans (beforeEvent_pid i s)
  | tick low zc consume => exact tick_pid low zc consume s
  | swdReturn => exact hostCompletes_ifNext.mpr fun _ _ => takeCompletion_pid s
  | pcaReturn => exact pcaCompletes_ifNext.mpr fun _ _ => rfl
  | loopStep =>
    exact loopStep_pid_frame (fun h => hx (.inr (.inr (.inr ⟨rfl, .inl h⟩))))
      (fun h => hx (.inr (.inr (.inr ⟨rfl, .inr (.inl h)⟩))))
      (fun st h => hx (.inr (.inr (.inr ⟨rfl, .inr (.inr ⟨st, h⟩)⟩))))
  | lockExpire => exact lockExpires_ifNext.mpr fun _ _ => rfl
  | heldExpire k => exact (heldDeadline_ifNext k).mpr fun _ _ => rfl
  | lockTake => exact lockTaken_ifNext.mpr fun _ => rfl

/-- Settles O45. -/
theorem onlyPidOperationsMutatePid : Obligations.OnlyPidOperationsMutatePid := by
  intro s t x rest htr hx ht
  have hrun := runInput_pid (x := x) (s := { s with trace := rest }) hx
  have hstep : IfNext (fun t => t.pid = s.pid) (andThen settle (runInput x { s with trace := rest })) :=
    (ifNext_andThen _ _).mpr (hrun.mono fun u hu => (settle_pid u).trans hu)
  exact hstep.of_eq ((step_cons htr).symm.trans ht)

/-! ### Errors -/

theorem submitRead_refusals {c : Caller} {tmo : Word} {fresh : Bool} {s : State} {r : Refusal}
    (h : submitRead c tmo fresh s = .refused r) : r = .timeoutNotPositive ∨ r = .completionNotFresh := by
  unfold submitRead at h
  split_ifs at h <;> cases h
  · exact .inl rfl
  · exact .inr rfl

theorem setLevel_refusals {v : Word} {s : State} {r : Refusal} (h : setLevel v s = .refused r) :
    r = .pcaNotInitialised := by
  unfold setLevel at h
  dsimp only at h
  split_ifs at h
  cases h
  rfl

theorem execPcaInit_refusals {s : State} {r : Refusal} (h : execPcaInit s = .refused r) :
    r = .pcaAlreadyInitialised ∨ r = .phaseTableIllFormed := by
  unfold execPcaInit at h
  split_ifs at h <;> cases h
  · exact .inl rfl
  · exact .inr rfl

theorem pidStep_refusals {input sp ts : Word} {s : State} {r : Refusal} (h : pidStep input sp ts s = .refused r) :
    r = .timestampBackwards := by
  unfold pidStep at h
  dsimp only at h
  split_ifs at h
  cases h
  rfl

theorem execLoopTick_refusals {s : State} {r : Refusal} (h : execLoopTick s = .refused r) : r = .loopTickOverlap := by
  unfold execLoopTick at h
  split_ifs at h
  cases h
  rfl

/-- The refusals of commands: 93_implementation_defined.md U1, U3, U4, U5, U7; 70_reset_and_hazards.md R276. -/
def commandRefusals : List Refusal :=
  [.timeoutNotPositive, .completionNotFresh, .pcaNotInitialised, .pcaAlreadyInitialised, .phaseTableIllFormed,
    .timestampBackwards, .loopTickOverlap]

theorem exec_command_refusals {op : Byte} {i : Instr} (hi : .command op = encode i) {s : State} {r : Refusal}
    (h : exec i s = .refused r) : r ∈ commandRefusals := by
  cases i with
  | swdRead => obtain rfl | rfl := submitRead_refusals h <;> decide
  | pcaSet => cases setLevel_refusals h; decide
  | pcaInit => obtain rfl | rfl := execPcaInit_refusals h <;> decide
  | pidCompute => cases pidStep_refusals h; decide
  | loopTick => cases execLoopTick_refusals h; decide
  | fxDiv =>
    change execFxDiv s = _ at h
    unfold execFxDiv at h
    split_ifs at h
  | fxParse =>
    change execFxParse s = _ at h
    unfold execFxParse at h
    split at h <;> cases h
  | fxAdd | fxSub | fxMul | fxFromInt | fxToInt | fxClamp | fxFormat | pcaRead | pidSetCoef | pidSetLimits => cases h
  | _ => cases hi

theorem issueCommand_refusals {op : Byte} {s : State} {r : Refusal} (h : issueCommand op s = .refused r) :
    r ∈ commandRefusals := by
  cases hd : decode (.command op) with
  | ok i => exact exec_command_refusals (eq_encode_of_decode hd) ((issueCommand_ok hd).symm.trans h)
  | error e =>
    simp only [issueCommand, hd] at h
    cases h

theorem andThen_refused {f : State → State} {x : Result} {r : Refusal} (h : andThen f x = .refused r) :
    x = .refused r := by
  cases x with
  | refused r' => exact h
  | next t => cases h
  | fault e => cases h

/-- After an exchange that ended with any code the completion reports it, and the next SWD_READ finds a free slot. -/
theorem endedWith_then_read {s : State} (e : Byte) {tmo : Word} (hs : s.run.served = some .host) (h : 0 < tmo.toInt) :
    ∃ t u, runInput .swdReturn (endedWith e s) = .next t ∧ t.cmd.status = e ∧
      exec .swdRead { t with cmd.a0 := tmo } = .next u ∧ u.swd.phase = .startPulse ∧ u.run.served = some .host := by
  refine ⟨takeCompletion (endedWith e s), _, hostCompletes_done hs rfl, ?_,
    submitRead_accepted h ?_ ?_, rfl, rfl⟩
  · rw [takeCompletion_eq]
    rfl
  · rw [takeCompletion_eq]
    rfl
  · rw [takeCompletion_eq]

/-- Settles O60. -/
theorem errorsNeverHaltTheCore : Obligations.ErrorsNeverHaltTheCore := by
  refine ⟨fun s rest line zc consume htr => ⟨_, step_of_runInput htr rfl⟩, fun s op rest r htr h => ?_,
    fun s e tmo hs h => endedWith_then_read e hs h, fun s t h => ?_⟩
  · exact issueCommand_refusals (andThen_refused ((step_cons htr).symm.trans h))
  · exact ((conf_stepInvariant s.conf).step rfl).of_eq h

/-! ### Reset -/

/-- Settles O55: the reset state is a literal; the bounds of its parameters are decided. -/
theorem resetStateIsAsSpecified : Obligations.ResetStateIsAsSpecified := by
  have hconf : confOk State.reset.conf = true := by decide
  exact ⟨rfl, rfl, rfl, rfl, rfl, rfl, by decide, rfl, rfl, rfl, rfl, rfl, rfl, rfl, rfl, hconf⟩

end Sys2Proof.Machine
end
